-- ==== Sys2Proof/Word.lean ====
section
/-! DEFINITION. The block's word types (00_scope.md R14): everything is unsigned, bit 0 is the least
significant bit. -/

namespace Sys2Proof

/-- An expander byte, a command byte, a data byte (R14). -/
abbrev Byte := BitVec 8

/-- One word of the request port (30_encoding.md R104). -/
abbrev Word := BitVec 32

/-- The four data lines D7..D4 (30_encoding.md R100). -/
abbrev Nibble := BitVec 4

/-- The mode bit of a transfer, the register-select line (30_encoding.md R111): COMMAND 0, DATA 1. -/
inductive Mode where
  | command
  | data
  deriving DecidableEq, Repr

end Sys2Proof
end

