-- ==== Sys2Proof/Syntax.lean ====
section
/-! DEFINITION. The instructions: one constructor per row of spec/opcode_table.json. The first twenty are
the requests the host submits (30_encoding.md R105); the `cmd` rows are the display controller's command
bytes the block sends (R112); the `nib` rows are the two initialization nibbles (R114). -/

namespace Sys2Proof

inductive Instr where
  -- requests, in the order of R105
  | init
  | clear
  | home
  | putc (cp : BitVec 24)
  | setcursor (col row : BitVec 8)
  | displayOn
  | displayOff
  | cursorOn
  | cursorOff
  | blinkOn
  | blinkOff
  | backlightOn
  | backlightOff
  /-- `glyph` holds the rows r0 .. r7 in order; a well-formed glyph has exactly eight (R107). -/
  | cgdef (slot : BitVec 8) (glyph : List Byte)
  | scrollLeft
  | scrollRight
  | leftToRight
  | rightToLeft
  | shiftInc
  | shiftDec
  -- command bytes of the display controller (R112); a don't-care bit is sent 0 and is no operand
  | cmdClearDisplay
  | cmdReturnHome
  /-- I: left-to-right (increment); S: shift. -/
  | cmdEntryModeSet (iBit sBit : Bool)
  /-- D: display on; C: cursor on; B: blink on. -/
  | cmdDisplayControl (dBit cBit bBit : Bool)
  /-- M: move display; R: right. -/
  | cmdCursorDisplayShift (mBit rBit : Bool)
  /-- L: 8-bit interface; N: 2-line; F: font. -/
  | cmdFunctionSet (lBit nBit fBit : Bool)
  | cmdSetCgramAddress (a : BitVec 6)
  | cmdSetDdramAddress (a : BitVec 7)
  -- initialization nibbles (R114)
  | nibInit8bit
  | nibInit4bit
  deriving DecidableEq, Repr

/-- What the block itself sends through the Transport Multiplexer, as it stands on the data lines: a
command byte of format CMD8 (R112) or an initialization nibble of format NIB4 (R114). -/
inductive TransportWord where
  | command (b : Byte)
  | nibble (n : Nibble)
  deriving DecidableEq, Repr

/-- An instruction's encoding: a request is one word, or three for CGDEF (R104); the other rows are a
transport word. -/
inductive Code where
  | request (q : Word) (payload : List Word)
  | transport (t : TransportWord)
  deriving DecidableEq, Repr

/-- The pseudo-instructions of the assembly language (30_encoding.md R110). -/
inductive Pseudo where
  | print (text : List (BitVec 24))
  | autoscrollOn
  | autoscrollOff
  deriving DecidableEq, Repr

end Sys2Proof
end

