-- ==== Sys2Proof/WellFormed.lean ====
section
/-! DEFINITION. The one check of an instruction's fields that its types do not make: a glyph is exactly
eight bytes (30_encoding.md R107). Every other operand takes every value of its type (R106). -/

namespace Sys2Proof

/-- "The glyph is exactly 8 bytes: there is no other length" (R107). -/
def Instr.wellFormed : Instr → Bool
  | .cgdef _ glyph => glyph.length == 8
  | _ => true

abbrev Instr.WellFormed (i : Instr) : Prop := i.wellFormed = true

/-- The host can submit the first twenty rows only (30_encoding.md R105; "not a request" for the others). -/
def Instr.isRequest : Instr → Bool
  | .init => true
  | .clear => true
  | .home => true
  | .putc _ => true
  | .setcursor _ _ => true
  | .displayOn => true
  | .displayOff => true
  | .cursorOn => true
  | .cursorOff => true
  | .blinkOn => true
  | .blinkOff => true
  | .backlightOn => true
  | .backlightOff => true
  | .cgdef _ _ => true
  | .scrollLeft => true
  | .scrollRight => true
  | .leftToRight => true
  | .rightToLeft => true
  | .shiftInc => true
  | .shiftDec => true
  | .cmdClearDisplay => false
  | .cmdReturnHome => false
  | .cmdEntryModeSet _ _ => false
  | .cmdDisplayControl _ _ _ => false
  | .cmdCursorDisplayShift _ _ => false
  | .cmdFunctionSet _ _ _ => false
  | .cmdSetCgramAddress _ => false
  | .cmdSetDdramAddress _ => false
  | .nibInit8bit => false
  | .nibInit4bit => false

end Sys2Proof
end

