-- ==== Sys2Proof/Decode.lean ====
section
/-! DEFINITION. Decoding and encoding (30_encoding.md): request words (R104 to R109), command bytes
(R112), initialization nibbles (R114), and the pseudo-instructions (R110). -/

namespace Sys2Proof

/-- b2n as a byte (00_scope.md R14). -/
def bit (x : Bool) : Byte := if x then 1 else 0

/-- Why a code spells no instruction. -/
inductive DecodeError where
  /-- Opcode 0x00, or 0x15 to 0xFF (R106). -/
  | reservedOpcode
  /-- A non-zero bit in a must-be-zero field (R106). -/
  | mustBeZero
  /-- Not as many payload words as the opcode has (R109). -/
  | wrongLength
  /-- The command byte 0x00, which has no most significant 1 bit (R112). -/
  | reservedCommand
  /-- A nibble other than 0x3 and 0x2 (R114). -/
  | reservedNibble
  deriving DecidableEq, Repr

/-- The opcode of CGDEF, the one request of three words (R109). -/
def cgdefOpcode : Byte := 0x0E

/-- The R0 rows of R105. -/
def r0Table : List (Byte × Instr) :=
  [(0x01, .init), (0x02, .clear), (0x03, .home),
   (0x06, .displayOn), (0x07, .displayOff), (0x08, .cursorOn), (0x09, .cursorOff),
   (0x0A, .blinkOn), (0x0B, .blinkOff), (0x0C, .backlightOn), (0x0D, .backlightOff)] ++
  [(0x0F, .scrollLeft), (0x10, .scrollRight), (0x11, .leftToRight), (0x12, .rightToLeft),
   (0x13, .shiftInc), (0x14, .shiftDec)]

/-- q[7:0] (R104). -/
def opcodeOf (q : Word) : Byte := q.extractLsb' 0 8

/-- Row i of a payload word is its byte [8i+7:8i] (R107). -/
def payloadRow (g : Word) (i : Nat) : Byte := g.extractLsb' (8 * i) 8

/-- The four rows of one payload word, row 0 in the least significant byte (R107). -/
def payloadRows (g : Word) : List Byte :=
  [payloadRow g 0, payloadRow g 1, payloadRow g 2, payloadRow g 3]

/-- How many words follow the first: a request's length is told from its opcode alone (R109). -/
def payloadLength (q : Word) : Nat := if opcodeOf q = cgdefOpcode then 2 else 0

/-- An operand-free request: bits 31:8 must be zero (R104, R106). -/
def decodeR0 (q : Word) : Except DecodeError Instr :=
  match r0Table.lookup (opcodeOf q) with
  | some i => if q.extractLsb' 8 24 = 0 then .ok i else .error .mustBeZero
  | none => .error .reservedOpcode

/-- A request word with its payload (R104 to R107). -/
def decodeRequest (q : Word) (payload : List Word) : Except DecodeError Instr :=
  if opcodeOf q = cgdefOpcode then
    match payload with
    | [g0, g1] =>
      if q.extractLsb' 16 16 = 0 then
        .ok (.cgdef (q.extractLsb' 8 8) (payloadRows g0 ++ payloadRows g1))
      else .error .mustBeZero
    | _ => .error .wrongLength
  else if payload ≠ [] then .error .wrongLength
  else if opcodeOf q = 0x04 then .ok (.putc (q.extractLsb' 8 24))
  else if opcodeOf q = 0x05 then
    if q.extractLsb' 24 8 = 0 then .ok (.setcursor (q.extractLsb' 8 8) (q.extractLsb' 16 8))
    else .error .mustBeZero
  else decodeR0 q

/-- "The decoding is by the most significant 1 bit of the byte" (R112). -/
def decodeCommand (b : Byte) : Except DecodeError Instr :=
  if b.getLsbD 7 then .ok (.cmdSetDdramAddress (b.extractLsb' 0 7))
  else if b.getLsbD 6 then .ok (.cmdSetCgramAddress (b.extractLsb' 0 6))
  else if b.getLsbD 5 then .ok (.cmdFunctionSet (b.getLsbD 4) (b.getLsbD 3) (b.getLsbD 2))
  else if b.getLsbD 4 then .ok (.cmdCursorDisplayShift (b.getLsbD 3) (b.getLsbD 2))
  else if b.getLsbD 3 then .ok (.cmdDisplayControl (b.getLsbD 2) (b.getLsbD 1) (b.getLsbD 0))
  else if b.getLsbD 2 then .ok (.cmdEntryModeSet (b.getLsbD 1) (b.getLsbD 0))
  else if b.getLsbD 1 then .ok .cmdReturnHome
  else if b.getLsbD 0 then .ok .cmdClearDisplay
  else .error .reservedCommand

/-- The two initialization nibbles (R114). -/
def decodeNibble (n : Nibble) : Except DecodeError Instr :=
  if n = 0x3 then .ok .nibInit8bit
  else if n = 0x2 then .ok .nibInit4bit
  else .error .reservedNibble

def decodeTransport : TransportWord → Except DecodeError Instr
  | .command b => decodeCommand b
  | .nibble n => decodeNibble n

/-- Total: every code is an instruction or is rejected by name. -/
def decode : Code → Except DecodeError Instr
  | .request q payload => decodeRequest q payload
  | .transport t => decodeTransport t

/-! ## The encoder -/

/-- The opcode of a request (R105). The transport rows have none; the model gives them the reserved 0x00. -/
def requestOpcode : Instr → Byte
  | .init => 0x01
  | .clear => 0x02
  | .home => 0x03
  | .putc _ => 0x04
  | .setcursor _ _ => 0x05
  | .displayOn => 0x06
  | .displayOff => 0x07
  | .cursorOn => 0x08
  | .cursorOff => 0x09
  | .blinkOn => 0x0A
  | .blinkOff => 0x0B
  | .backlightOn => 0x0C
  | .backlightOff => 0x0D
  | .cgdef _ _ => cgdefOpcode
  | .scrollLeft => 0x0F
  | .scrollRight => 0x10
  | .leftToRight => 0x11
  | .rightToLeft => 0x12
  | .shiftInc => 0x13
  | .shiftDec => 0x14
  | .cmdClearDisplay => 0x00
  | .cmdReturnHome => 0x00
  | .cmdEntryModeSet _ _ => 0x00
  | .cmdDisplayControl _ _ _ => 0x00
  | .cmdCursorDisplayShift _ _ => 0x00
  | .cmdFunctionSet _ _ _ => 0x00
  | .cmdSetCgramAddress _ => 0x00
  | .cmdSetDdramAddress _ => 0x00
  | .nibInit8bit => 0x00
  | .nibInit4bit => 0x00

/-- The row of a glyph; a glyph too short reads 0 (never so in a well-formed one). -/
def glyphRow (glyph : List Byte) (i : Nat) : Byte := glyph.getD i 0

/-- Four glyph rows from row `i` on as one payload word: `r0 | r1 << 8 | r2 << 16 | r3 << 24` (R225). -/
def packRows (glyph : List Byte) (i : Nat) : Word :=
  glyphRow glyph (i + 3) ++ glyphRow glyph (i + 2) ++ glyphRow glyph (i + 1) ++ glyphRow glyph i

/-- The byte of an instruction of format CMD8 (R112); 0x00 for any other. -/
def commandByte : Instr → Byte
  | .cmdClearDisplay => 0x01
  | .cmdReturnHome => 0x02
  | .cmdEntryModeSet i s => 0x04 ||| (bit i <<< 1) ||| bit s
  | .cmdDisplayControl d c b => 0x08 ||| (bit d <<< 2) ||| (bit c <<< 1) ||| bit b
  | .cmdCursorDisplayShift m r => 0x10 ||| (bit m <<< 3) ||| (bit r <<< 2)
  | .cmdFunctionSet l n f => 0x20 ||| (bit l <<< 4) ||| (bit n <<< 3) ||| (bit f <<< 2)
  | .cmdSetCgramAddress a => 0x40 ||| a.setWidth 8
  | .cmdSetDdramAddress a => 0x80 ||| a.setWidth 8
  | _ => 0x00

/-- The words of an instruction (R104, R112, R114). -/
def encode (i : Instr) : Code :=
  match i with
  | .putc cp => .request (cp ++ requestOpcode i) []
  | .setcursor col row => .request ((0 : Byte) ++ row ++ col ++ requestOpcode i) []
  | .cgdef slot glyph =>
    .request ((0 : BitVec 16) ++ slot ++ requestOpcode i) [packRows glyph 0, packRows glyph 4]
  | .nibInit8bit => .transport (.nibble 0x3)
  | .nibInit4bit => .transport (.nibble 0x2)
  | _ =>
    if i.isRequest then .request ((0 : BitVec 24) ++ requestOpcode i) []
    else .transport (.command (commandByte i))

/-! ## Pseudo-instructions -/

/-- R110: `print` is one PUTC per code point in text order; the autoscroll names are aliases. -/
def Pseudo.expand : Pseudo → List Instr
  | .print text => text.map .putc
  | .autoscrollOn => [.shiftInc]
  | .autoscrollOff => [.shiftDec]

/-! ## The opcode table's numbering -/

/-- The code of an instruction whose bits are `w`, numbered as spec/opcode_table.json numbers them. A row
of 32 bits or more is a request; a narrower one is a transport word: up to 4 bits a nibble, else a byte.
A NIB4 row in whole bytes cannot be told from a CMD8 row by its width: the byte-wide number 0x3 is read
as the nibble 0x3, since CMD8's own number for return home is 0x02, and 0x2 as the command byte (log 16). -/
def tableCode (nbits w : Nat) : Code :=
  if nbits ≤ 4 then .transport (.nibble (BitVec.ofNat 4 w))
  else if nbits ≤ 8 then
    if w = 0x3 then .transport (.nibble 0x3) else .transport (.command (BitVec.ofNat 8 w))
  else
    let q : Word := BitVec.ofNat 32 w
    .request q (if payloadLength q = 2
      then [BitVec.ofNat 32 (w / 2 ^ 32), BitVec.ofNat 32 (w / 2 ^ 64)] else [])

/-- The instruction the decoder reads from bits numbered as the opcode table numbers them. -/
def decodeTableWord (nbits w : Nat) : Option Instr :=
  match decode (tableCode nbits w) with
  | .ok i => some i
  | .error _ => none

end Sys2Proof
end

