-- ==== Sys2Proof/Config.lean ====
section
/-! DEFINITION. What an implementation fixes (00_scope.md R11) and the two free values the spec leaves
to a draw (R38, R32). The parameters are fields of a configuration record, which State holds and no
step writes, so a statement about every state is a statement about every configuration. -/

namespace Sys2Proof

/-- COMMIT_POLICY (00_scope.md R11, R18): when an assignment of the working copy reaches `sh`. -/
inductive CommitPolicy where
  | optimistic
  | confirmed
  deriving DecidableEq, Repr

/-- Eight lines for eight uses: the four control lines are four different lines, none of them a data line
(30_encoding.md R100, R102: read/write is "the remaining line"). -/
def linesApart (d4 : Fin 5) (rs en rw bl : Fin 8) : Bool :=
  let offData (i : Fin 8) : Bool := decide (i.val < d4.val) || decide (d4.val + 4 ≤ i.val)
  offData rs && offData en && offData rw && offData bl &&
    rs != en && rs != rw && rs != bl && en != rw && en != bl && rw != bl

/-- Which expander line carries what: the parameters BIT_RS, BIT_EN, BIT_RW, BIT_BL and the data lines of
00_scope.md R11, as bit indexes of the expander byte (log 8). -/
structure Lines where
  /-- The data lines, by the line of D4; D5, D6 and D7 are the three lines above it. -/
  d4 : Fin 5
  /-- BIT_RS. -/
  rs : Fin 8
  /-- BIT_EN. -/
  en : Fin 8
  /-- BIT_RW. -/
  rw : Fin 8
  /-- BIT_BL. -/
  bl : Fin 8
  /-- No line has two uses. -/
  apart : linesApart d4 rs en rw bl = true
  deriving DecidableEq, Repr

/-- The values R11 gives them, the EXP8 layout of 30_encoding.md R100: RS 0, RW 1, EN 2, BL 3, data 7..4. -/
def exp8Lines : Lines := { d4 := 4, rs := 0, en := 2, rw := 1, bl := 3, apart := rfl }

/-- The bus's answer to one write (10_state.md R38) with, for a failure, the draw of 20_memory.md R66:
the latch keeps its old value, or the byte landed. -/
inductive BusAnswer where
  | ok
  | failOld
  | failLanded
  deriving DecidableEq, Repr, Inhabited

/-- A duration in microseconds, a lower bound (10_state.md R39). -/
abbrev Micros := Nat

/-- The configuration CFG (10_state.md R28) and the implementation parameters (00_scope.md R11), fixed
at construction. -/
structure Cfg where
  /-- ADDR, the expander's 7-bit I2C address. -/
  addr : BitVec 7
  /-- COLS; no rule reads it (90_conflicts.md C2). -/
  cols : BitVec 8
  /-- ROWS, 1..255. -/
  rows : BitVec 8
  /-- T_EDGE. -/
  tEdge : Micros
  /-- T_EDGE is more than 0 (R11, 40_transport.md R143), so no construction has a T_EDGE of 0 (log 29). -/
  tEdgePos : 0 < tEdge
  tPower : Micros
  tInit1 : Micros
  tInit2 : Micros
  tInit3 : Micros
  tSlow : Micros
  policy : CommitPolicy
  /-- BIT_RS, BIT_EN, BIT_RW, BIT_BL and the data lines. -/
  lines : Lines
  /-- BL_RESET, the backlight flag after construction (OPEN, D11). -/
  blReset : Bool
  deriving DecidableEq, Repr

/-- FREE VALUE. The bus's answer to the n-th write once `State.bus` is used up (R38: "a free draw of the
bus, under no law"). No body: no proof can see which answer it is (log 4). -/
opaque Config.busAnswer : Nat → BusAnswer

/-- FREE VALUE. The expander's lines before the first completed write (R32: "unspecified: a model draws
it (any byte)"). No body (log 5). -/
opaque Config.latchAtPowerUp : Byte

end Sys2Proof
end

