-- ==== Sys2Proof/Machine/Params.lean ====
section
/-! DEFINITION. The parameter values of 00_scope.md R11 and the expander lines they place
(30_encoding.md R100 to R103). -/

namespace Sys2Proof.Machine

/-- Milliseconds in the model's unit of duration. -/
def ms (n : Nat) : Micros := n * 1000

/-- The configuration `State.reset` is constructed with: the parameter values of R11, the spec's default
commit policy, and the construction arguments of 95_test_vectors.md section 0 (log 6, 7, 8). -/
def resetCfg : Cfg :=
  { addr := 0x27, cols := 16, rows := 2
    tEdge := ms 1, tEdgePos := by decide
    tPower := ms 50, tInit1 := ms 5, tInit2 := ms 5, tInit3 := ms 1, tSlow := ms 2
    policy := .optimistic, lines := exp8Lines, blReset := false }

/-- What R28 and R40 require of a configuration beyond its types: `ROWS >= 1`. -/
def cfgValid (c : Cfg) : Bool := c.rows != 0

/-! ## The masks of the lines (R103) -/

/-- The mask of one expander line. -/
def lineMask (i : Fin 8) : Byte := 1 <<< i.val

/-- RS: the mask of the register-select line, BIT_RS (R101, R103). -/
def rsMask (c : Cfg) : Byte := lineMask c.lines.rs

/-- EN: the mask of the enable line, BIT_EN (R102, R103). -/
def enMask (c : Cfg) : Byte := lineMask c.lines.en

/-- RW: the mask of the read/write line, BIT_RW (R102, R103). -/
def rwMask (c : Cfg) : Byte := lineMask c.lines.rw

/-- BL: the mask of the backlight line, BIT_BL (R100, R103). -/
def blMask (c : Cfg) : Byte := lineMask c.lines.bl

/-! ## Driving the lines -/

/-- The mode as the value ORed into a nibble byte: the register-select line (R101, R103). -/
def modeBits (c : Cfg) : Mode → Byte
  | .command => 0x00
  | .data => rsMask c

/-- A nibble on the data lines D7..D4 (R100). -/
def dataBits (c : Cfg) (n : Nibble) : Byte := n.setWidth 8 <<< c.lines.d4.val

/-- The backlight bit of an expander byte, `b2n(w.backlight_on) << 3` at R11's BIT_BL (40_transport.md R140). -/
def backlightBit (c : Cfg) (on : Bool) : Byte := if on then blMask c else 0x00

/-! ## Reading the lines -/

/-- Is a line of the expander byte high? -/
def lineHigh (b mask : Byte) : Bool := b &&& mask != 0

/-- The mode on the register-select line (R100, R101). -/
def modeOfByte (c : Cfg) (b : Byte) : Mode := if lineHigh b (rsMask c) then .data else .command

/-- The nibble on D7..D4 (R100). -/
def nibbleOfByte (c : Cfg) (b : Byte) : Nibble := b.extractLsb' c.lines.d4.val 4

end Sys2Proof.Machine
end

