-- ==== Sys2Proof/Machine/State.lean ====
section
/-! DEFINITION. The architectural state (10_state.md), as plain data, and reset. -/

namespace Sys2Proof.Machine

/-- The shadow register's six flags (R23, R25). -/
structure Shadow where
  backlightOn : Bool
  displayOn : Bool
  cursorOn : Bool
  blinkOn : Bool
  entryLeft : Bool
  entryShift : Bool
  deriving DecidableEq, Repr

/-- STATUS.code (R29): 0 and 1. -/
inductive StatusCode where
  | ok
  | transportFailure
  deriving DecidableEq, Repr

/-- STATUS (R29), and the content of a `Resp` event (R37). -/
structure Status where
  code : StatusCode
  op : BitVec 8
  k : BitVec 6
  byte : Byte
  deriving DecidableEq, Repr

/-- Code 0 with the other fields 0: the reset value (R29) and what a completed request leaves (R242). -/
def okStatus : Status := { code := .ok, op := 0, k := 0, byte := 0 }

/-- RX, the display controller's interface receiver (R33). -/
inductive Rx where
  | unknown
  | hi
  | lo (h : Nibble) (rs : Mode)
  deriving DecidableEq, Repr

/-- One delivered transfer, an entry of XFERS (R33, R70). -/
structure Transfer where
  rs : Mode
  byte : Byte
  deriving DecidableEq, Repr

/-- The events of the trace (00_scope.md R15, R16, R19). A `Wr` also shows the device address of its
transaction, `MemWrite(ADDR, 1, b)` (log 21). -/
inductive Event where
  | wr (addr : BitVec 7) (b : Byte)
  | dly (d : Micros)
  | resp (st : Status)
  deriving DecidableEq, Repr

/-- The machine's state: every item of R42, then the ports, then the model's own inputs. -/
structure State where
  /-- CFG and the implementation parameters (R28, R11). -/
  cfg : Cfg
  /-- `sh`, the committed shadow register (R23). -/
  sh : Shadow
  /-- `w`, the working copy (R31). -/
  w : Shadow
  /-- The request being performed; BUSY is 1 exactly when there is one (R21, R36, log 2). -/
  active : Option Instr
  /-- OP, the opcode of the request being performed (R21). -/
  op : BitVec 8
  /-- PC, the index of the next micro-step (R21, R22). -/
  pc : Nat
  /-- The MemWrites already made in this operation, the `k` of R140 (log 3). -/
  k : Nat
  /-- STATUS (R29). -/
  status : Status
  /-- INIT_DONE (R30). -/
  initDone : Bool
  /-- SYNCED (R30). -/
  synced : Bool
  /-- F_BEFORE_INIT, sticky (R30). -/
  fBeforeInit : Bool
  /-- REFUSED, sticky (R30). -/
  refused : Bool
  /-- P, the expander's output latch (R32). -/
  latch : Byte
  /-- RX (R33). -/
  rx : Rx
  /-- XFERS (R33). -/
  xfers : List Transfer
  /-- The trace (R19). -/
  trace : List Event
  /-- The words at the request port, submitted and not yet accepted (R36). -/
  port : List Word
  /-- MODEL'S OWN: a transport word to be sent by itself (log 13). -/
  xport : Option TransportWord
  /-- MODEL'S OWN: the bus's coming answers, the next one first (R38, log 4). -/
  bus : List BusAnswer
  /-- MODEL'S OWN: how many answers the bus has given; it indexes `Config.busAnswer` (log 4). -/
  draws : Nat
  deriving DecidableEq, Repr

/-- Why a step could stop with a fault. Nothing in the spec stops the block: a failed write is reported
and the session goes on (R248), use before INIT is a sticky mark (R243). So there is no constructor. -/
inductive Fault : Type where
  deriving DecidableEq, Repr

/-- Why a step could refuse. A reserved request is no refusal of the step: it sets REFUSED (R247). -/
inductive Refusal where
  /-- Raised by `exec`'s arm of an instruction that has no meaning yet. Safe: the model stops where the
  hardware goes on. No arm raises it in this model. -/
  | notModelled (mnemonic : String)
  deriving DecidableEq, Repr

/-- All six flags as construction leaves them (R42): the backlight at BL_RESET, the others 0. -/
def Shadow.fresh (c : Cfg) : Shadow :=
  { backlightOn := c.blReset, displayOn := false, cursorOn := false, blinkOn := false
    entryLeft := false, entryShift := false }

/-- The state right after a construction with configuration `c` (R40, R42), `p` being the draw of P. -/
def State.fresh (c : Cfg) (p : Byte) : State :=
  { cfg := c, sh := Shadow.fresh c, w := Shadow.fresh c
    active := none, op := 0, pc := 0, k := 0, status := okStatus
    initDone := false, synced := false, fBeforeInit := false, refused := false
    latch := p, rx := .unknown, xfers := [], trace := [], port := [], xport := none
    bus := [], draws := 0 }

/-- The machine right after reset, which is construction (R270), with the arguments of `resetCfg`. -/
def State.reset : State := State.fresh resetCfg Config.latchAtPowerUp

end Sys2Proof.Machine
end

