-- ==== Sys2Proof/Machine/Flags.lean ====
section
/-! DEFINITION. The flags of the shadow register (10_state.md R23, R26) and the two bundles the
controller's write-only registers are sent as (42_commands.md R187, R198). -/

namespace Sys2Proof.Machine

/-- The names of the shadow register's flags (R23). -/
inductive Field where
  | backlightOn
  | displayOn
  | cursorOn
  | blinkOn
  | entryLeft
  | entryShift
  deriving DecidableEq, Repr

/-- `w.f <- v` (00_scope.md R18). -/
def Shadow.set (w : Shadow) (f : Field) (v : Bool) : Shadow :=
  match f with
  | .backlightOn => { w with backlightOn := v }
  | .displayOn => { w with displayOn := v }
  | .cursorOn => { w with cursorOn := v }
  | .blinkOn => { w with blinkOn := v }
  | .entryLeft => { w with entryLeft := v }
  | .entryShift => { w with entryShift := v }

/-- The assignments of one micro-step, in order. -/
def Shadow.assign (w : Shadow) (l : List (Field × Bool)) : Shadow :=
  l.foldl (fun w a => w.set a.1 a.2) w

/-- The packed view SH (R26): bit 0 blink, 1 cursor, 2 display, 3 backlight, 4 entry shift, 5 entry
left, 7:6 zero. -/
def Shadow.packed (w : Shadow) : Byte :=
  bit w.blinkOn ||| (bit w.cursorOn <<< 1) ||| (bit w.displayOn <<< 2) ||| (bit w.backlightOn <<< 3) |||
    (bit w.entryShift <<< 4) ||| (bit w.entryLeft <<< 5)

/-- `DC(w) = 0x08 | b2n(display_on) << 2 | b2n(cursor_on) << 1 | b2n(blink_on)` (R187). -/
def displayControlByte (w : Shadow) : Byte :=
  0x08 ||| (bit w.displayOn <<< 2) ||| (bit w.cursorOn <<< 1) ||| bit w.blinkOn

/-- `EM(w) = 0x04 | b2n(entry_left) << 1 | b2n(entry_shift)` (R198). -/
def entryModeByte (w : Shadow) : Byte :=
  0x04 ||| (bit w.entryLeft <<< 1) ||| bit w.entryShift

end Sys2Proof.Machine
end

