-- ==== Sys2Proof/Machine/Operands.lean ====
section
/-! DEFINITION. The values the block assembles from operands and configuration (30_encoding.md R118). -/

namespace Sys2Proof.Machine

/-- The row SETCURSOR uses, `min(row, ROWS - 1)` (42_commands.md R182, R183). -/
def clampRow (c : Cfg) (row : BitVec 8) : Nat := min row.toNat (c.rows.toNat - 1)

/-- `(col + r * 0x40) & 0x7F`, computed on naturals and reduced to 7 bits (R185, R186). -/
def ddramAddress (col : BitVec 8) (r : Nat) : BitVec 7 := BitVec.ofNat 7 (col.toNat + r * 0x40)

/-- The set-DDRAM-address command, `0x80 | a` (30_encoding.md R113). -/
def setDdramByte (a : BitVec 7) : Byte := 0x80 ||| a.setWidth 8

/-- SETCURSOR's command byte (R182). -/
def setcursorByte (c : Cfg) (col row : BitVec 8) : Byte :=
  setDdramByte (ddramAddress col (clampRow c row))

/-- CGDEF's command byte, `0x40 | ((slot & 0x7) << 3)` (43_data.md R225). -/
def cgramByte (slot : BitVec 8) : Byte := 0x40 ||| ((slot &&& 0x07) <<< 3)

/-- PUTC's character byte, `cp & 0xFF` (43_data.md R220, R222). -/
def characterByte (cp : BitVec 24) : Byte := cp.extractLsb' 0 8

/-- INIT's function-set byte, `0x20 | b2n(ROWS > 1) << 3` (41_init.md R167, R168). -/
def functionSetByte (c : Cfg) : Byte := 0x20 ||| (bit (decide (1 < c.rows.toNat)) <<< 3)

/-- The nibble byte of the high half of `v`: `(v & 0xF0) | mode` on the lines of R100 (40_transport.md R145). -/
def highNibbleByte (c : Cfg) (v : Byte) (m : Mode) : Byte := dataBits c (v.extractLsb' 4 4) ||| modeBits c m

/-- The nibble byte of the low half of `v`: `((v << 4) & 0xF0) | mode` on the lines of R100 (R145). -/
def lowNibbleByte (c : Cfg) (v : Byte) (m : Mode) : Byte := dataBits c (v.extractLsb' 0 4) ||| modeBits c m

end Sys2Proof.Machine
end

