-- ==== Sys2Proof/Machine/Micro.lean ====
section
/-! DEFINITION. Micro-steps (00_scope.md R17): each is one bus write, one delay or one shadow assignment. -/

namespace Sys2Proof.Machine

/-- The named minimum delays (70_reset_and_hazards.md R280). -/
inductive Delay where
  | edge
  | power
  | init1
  | init2
  | init3
  | slow
  deriving DecidableEq, Repr

def Delay.micros (c : Cfg) : Delay → Micros
  | .edge => c.tEdge
  | .power => c.tPower
  | .init1 => c.tInit1
  | .init2 => c.tInit2
  | .init3 => c.tInit3
  | .slow => c.tSlow

/-- A byte to send: known when the request is accepted, or a flag bundle read from the working copy when
the micro-step is performed (00_scope.md R18). -/
inductive Value where
  | lit (v : Byte)
  | displayControl
  | entryMode
  deriving DecidableEq, Repr

def Value.eval (w : Shadow) : Value → Byte
  | .lit v => v
  | .displayControl => displayControlByte w
  | .entryMode => entryModeByte w

/-- Which half of a byte a nibble is (40_transport.md R145). -/
inductive Half where
  | high
  | low
  deriving DecidableEq, Repr

/-- An argument of ExpanderWrite (40_transport.md R141): 0x00, or a nibble byte with the enable line high
(`en`) or low. -/
inductive WriteArg where
  | zero
  | nibble (v : Value) (half : Half) (mode : Mode) (en : Bool)
  deriving DecidableEq, Repr

/-- The nibble byte of one half of a value (R145). -/
def nibbleByte (c : Cfg) (w : Shadow) (v : Value) (half : Half) (mode : Mode) : Byte :=
  match half with
  | .high => highNibbleByte c (v.eval w) mode
  | .low => lowNibbleByte c (v.eval w) mode

/-- The byte `x` passed to ExpanderWrite: `0x00`, `nm | EN` or `nm & ~EN` (R142). -/
def WriteArg.byte (c : Cfg) (w : Shadow) : WriteArg → Byte
  | .zero => 0x00
  | .nibble v half mode en =>
    if en then nibbleByte c w v half mode ||| enMask c else nibbleByte c w v half mode &&& ~~~(enMask c)

inductive Micro where
  /-- `ExpanderWrite(x)` (R140). -/
  | write (x : WriteArg)
  /-- `Sleep(d)` (R16). -/
  | sleep (d : Delay)
  /-- `Sleep(d)` after which the receiver is in 4-bit mode: `RX <- HI` (41_init.md R166). -/
  | sleepReady (d : Delay)
  /-- `w.f <- v` for each pair (R18). -/
  | assign (l : List (Field × Bool))
  deriving DecidableEq, Repr

/-- Does the micro-step make a MemWrite? -/
def Micro.isWrite : Micro → Bool
  | .write _ => true
  | _ => false

/-- The MemWrites of a list of micro-steps. -/
def writeCount (l : List Micro) : Nat := l.countP Micro.isWrite

end Sys2Proof.Machine
end

