-- ==== Sys2Proof/Machine/Ops.lean ====
section
/-! DEFINITION. The shared operations: the bus write and the observer behind it, the micro-step, the
acceptance, completion and failure of a request. -/

namespace Sys2Proof.Machine

/-! ## Small updates -/

/-- BUSY (10_state.md R21). -/
def State.busy (s : State) : Bool := s.active.isSome

/-- Append an event to the trace (00_scope.md R19). -/
def State.emit (e : Event) (s : State) : State := { s with trace := s.trace ++ [e] }

/-- The bus's answer to the j-th coming write (10_state.md R38): listed, or else the free value. -/
def State.answerAt (s : State) (j : Nat) : BusAnswer :=
  (s.bus[j]?).getD (Config.busAnswer (s.draws + j))

/-- The next answer is used up. -/
def State.takeAnswer (s : State) : State := { s with bus := s.bus.tail, draws := s.draws + 1 }

/-- The next `n` writes are answered `ok`. -/
def State.busOk (s : State) (n : Nat) : Prop := ∀ j, j < n → s.answerAt j = .ok

/-! ## The observer (20_memory.md R70) -/

/-- Latch nibble `n` with mode `rs`: the `case RX of` of R70. -/
def State.latchNibble (n : Nibble) (rs : Mode) (s : State) : State :=
  match s.rx with
  | .unknown => s
  | .hi => { s with rx := .lo n rs }
  | .lo h r0 =>
    if rs = r0 then { s with xfers := s.xfers ++ [{ rs := r0, byte := h ++ n }], rx := .hi }
    else { s with rx := .unknown }

/-- What a byte does to the receiver, `p` being the latch before it: a read cycle, an enable high-to-low
edge, or nothing (R70; its bit numbers read as the line parameters, log 20). -/
def State.receive (p b : Byte) (s : State) : State :=
  if lineHigh b (rwMask s.cfg) then { s with rx := .unknown }
  else if lineHigh p (enMask s.cfg) && !lineHigh b (enMask s.cfg) then
    s.latchNibble (nibbleOfByte s.cfg b) (modeOfByte s.cfg b)
  else s

/-- A byte lands on the expander: `P <- b`, and the receiver sees the lines change (R66, R70). -/
def State.land (b : Byte) (s : State) : State := { s.receive s.latch b with latch := b }

/-! ## TransportFailure (60_exceptions.md R244) -/

/-- What STATUS records of a failed write (10_state.md R29). -/
def failureStatus (s : State) (b : Byte) : Status :=
  { code := .transportFailure, op := s.op, k := BitVec.ofNat 6 s.k, byte := b }

/-- The block's one exception: everything R244 does at the failing write with byte `b`, but for the latch,
which the draw of R66 has settled before. There is no return from it (R248). -/
def State.transportFailure (b : Byte) (s : State) : State :=
  { s with
    synced := false
    rx := .unknown
    w := match s.cfg.policy with
      | .confirmed => s.sh
      | .optimistic => s.w
    status := failureStatus s b
    trace := s.trace ++ [.resp (failureStatus s b)]
    active := none }

/-! ## Micro-steps -/

/-- How far an operation has come: it goes on, or a failed write has ended it. -/
inductive Progress where
  | going (s : State)
  | aborted (s : State)
  deriving DecidableEq, Repr

def Progress.state : Progress → State
  | .going s => s
  | .aborted s => s

/-- `MemWrite(ADDR, 1, b)` (00_scope.md R15, 20_memory.md R66): the event, then the bus's answer. -/
def State.memWrite (b : Byte) (s : State) : Progress :=
  let issued := (s.emit (.wr s.cfg.addr b)).takeAnswer
  match s.answerAt 0 with
  | .ok => .going { issued.land b with k := s.k + 1 }
  | .failOld => .aborted (issued.transportFailure b)
  | .failLanded => .aborted ((issued.land b).transportFailure b)

/-- `ExpanderWrite(x)`: "ORs in the persisted backlight bit" (40_transport.md R140). -/
def State.expanderWrite (x : Byte) (s : State) : Progress :=
  s.memWrite (x ||| backlightBit s.cfg s.w.backlightOn)

/-- The shadow assignments of one micro-step: to `w`, and under OPTIMISTIC to `sh` as well (00_scope.md
R18, 10_state.md R31). -/
def State.assign (l : List (Field × Bool)) (s : State) : State :=
  match s.cfg.policy with
  | .optimistic => { s with w := s.w.assign l, sh := s.sh.assign l }
  | .confirmed => { s with w := s.w.assign l }

/-- `Sleep(d)`: the event with its lower bound; the timer always ends (10_state.md R39, R290). -/
def State.sleep (d : Delay) (s : State) : State := s.emit (.dly (d.micros s.cfg))

/-- `pc <- pc + 1` (10_state.md R22). -/
def State.nextPc (s : State) : State := { s with pc := s.pc + 1 }

/-- One micro-step, PC included (00_scope.md R17). -/
def State.micro (m : Micro) (s : State) : Progress :=
  match m with
  | .write x =>
    match s.expanderWrite (x.byte s.cfg s.w) with
    | .going t => .going t.nextPc
    | .aborted t => .aborted t
  | .sleep d => .going (s.sleep d).nextPc
  | .sleepReady d => .going { (s.sleep d).nextPc with rx := .hi }
  | .assign l => .going (s.assign l).nextPc

/-- Micro-steps in list order, without branching, up to the first failed write (R17, R246). -/
def State.runMicros (s : State) : List Micro → Progress
  | [] => .going s
  | m :: rest =>
    match s.micro m with
    | .going t => t.runMicros rest
    | .aborted t => .aborted t

/-! ## Requests -/

/-- Acceptance: BUSY, OP, PC and `w` (10_state.md R36); for INIT also R170, for any other request the
mark of R243. -/
def State.accept (i : Instr) (s : State) : State :=
  let a := { s with active := some i, op := requestOpcode i, pc := 0, k := 0, w := s.sh }
  if i = .init then { a with initDone := false, synced := false, rx := .unknown }
  else { a with fBeforeInit := s.fBeforeInit || !s.initDone }

/-- Completion (60_exceptions.md R242): under CONFIRMED `sh <- w`, STATUS, the response, BUSY; INIT's own
actions first (41_init.md R171). -/
def State.complete (s : State) : State :=
  { s with
    initDone := s.initDone || s.active == some .init
    synced := s.synced || s.active == some .init
    sh := match s.cfg.policy with
      | .confirmed => s.w
      | .optimistic => s.sh
    status := okStatus
    trace := s.trace ++ [.resp okStatus]
    active := none }

/-- The end of a run of micro-steps: completion, unless a failed write has ended the request. -/
def Progress.settle : Progress → State
  | .going s => s.complete
  | .aborted s => s

/-- A request submitted to the block. Idle, it is accepted and performed to its response; busy, the port
holds it and nothing changes (10_state.md R36). -/
def performRequest (i : Instr) (steps : List Micro) (s : State) : Host.Outcome State Fault Refusal :=
  match s.busy with
  | true => .next s
  | false => .next ((s.accept i).runMicros steps).settle

/-- Where an internal operation performed by itself starts: inside a request its micro-steps and writes go
on counting; in an idle block they count from 0 (log 12). -/
def State.beginTransport (s : State) : State :=
  match s.busy with
  | true => s
  | false => { s with pc := 0, k := 0 }

/-- An internal operation of the Transport Multiplexer: its micro-steps, with no acceptance and no
response of its own (40_transport.md; log 12). -/
def performTransport (steps : List Micro) (s : State) : Host.Outcome State Fault Refusal :=
  .next (s.beginTransport.runMicros steps).state

/-- A refusal changes REFUSED and nothing else (60_exceptions.md R247). -/
def State.refuse (s : State) : State := { s with refused := true }

/-! ## The host's moves (10_state.md R40, R41) -/

/-- Construction, the block's reset; `p` is the draw of P. With `ROWS = 0` it builds no configuration:
REFUSED is set and nothing else changes (R40, R247). -/
def construct (c : Cfg) (p : Byte) (s : State) : State :=
  if c.rows = 0 then s.refuse else State.fresh c p

/-- The host puts the words of a request at the port (R36). -/
def State.submit (words : List Word) (s : State) : State := { s with port := s.port ++ words }

end Sys2Proof.Machine
end

