-- ==== Sys2Proof/Machine/Transport.lean ====
section
/-! DEFINITION. The Transport Multiplexer's operations as lists of micro-steps (40_transport.md), and the
meanings of the table's transport rows: the eight command bytes (30_encoding.md R112) and the two
initialization nibbles (R114), each sent by itself. -/

namespace Sys2Proof.Machine

/-- `WriteNibble`: enable high, settle, enable low, settle (R142). -/
def writeNibble (v : Value) (half : Half) (mode : Mode) : List Micro :=
  [.write (.nibble v half mode true), .sleep .edge, .write (.nibble v half mode false), .sleep .edge]

/-- `SendByte`: the high nibble first, then the low nibble (R145). -/
def sendByte (v : Value) (mode : Mode) : List Micro :=
  writeNibble v .high mode ++ writeNibble v .low mode

/-- A command byte: `SendByte(v, COMMAND)` (R111). -/
def commandByteSteps (i : Instr) : List Micro := sendByte (.lit (commandByte i)) .command

/-- The nibble 0x3: `WriteNibble(0x30)` (R114). -/
def nibInit8bitSteps : List Micro := writeNibble (.lit 0x30) .high .command

/-- The nibble 0x2: `WriteNibble(0x20)` (R114). -/
def nibInit4bitSteps : List Micro := writeNibble (.lit 0x20) .high .command

/-- A command byte sent by itself. -/
def sendCommand (i : Instr) (s : State) : Host.Outcome State Fault Refusal :=
  performTransport (commandByteSteps i) s

/-- clear display, `0000 0001` (R112). DESIGN CHOICE (log 12): sent by itself it is not followed by T_SLOW; the
delay of 70_reset_and_hazards.md R282 is a micro-step of the requests CLEAR and INIT, and the spec says
nothing of the row alone. -/
def execCmdClearDisplay (s : State) : Host.Outcome State Fault Refusal :=
  sendCommand .cmdClearDisplay s

/-- return home, `0000 001x`, x sent 0 (R112, R116). DESIGN CHOICE (log 12): as with clear display, no T_SLOW
follows it (R282); that delay is a micro-step of the request HOME. -/
def execCmdReturnHome (s : State) : Host.Outcome State Fault Refusal :=
  sendCommand .cmdReturnHome s

/-- entry mode set, `0000 01IS` (R112). -/
def execCmdEntryModeSet (iBit sBit : Bool) (s : State) : Host.Outcome State Fault Refusal :=
  sendCommand (.cmdEntryModeSet iBit sBit) s

/-- display control, `0000 1DCB` (R112). -/
def execCmdDisplayControl (dBit cBit bBit : Bool) (s : State) : Host.Outcome State Fault Refusal :=
  sendCommand (.cmdDisplayControl dBit cBit bBit) s

/-- cursor/display shift, `0001 MRxx`, x sent 0 (R112, R116). -/
def execCmdCursorDisplayShift (mBit rBit : Bool) (s : State) : Host.Outcome State Fault Refusal :=
  sendCommand (.cmdCursorDisplayShift mBit rBit) s

/-- function set, `001L NFxx`, x sent 0 (R112, R116). -/
def execCmdFunctionSet (lBit nBit fBit : Bool) (s : State) : Host.Outcome State Fault Refusal :=
  sendCommand (.cmdFunctionSet lBit nBit fBit) s

/-- set CGRAM address, `01` and six address bits (R112). -/
def execCmdSetCgramAddress (a : BitVec 6) (s : State) : Host.Outcome State Fault Refusal :=
  sendCommand (.cmdSetCgramAddress a) s

/-- set DDRAM address, `1` and seven address bits (R112, R113). -/
def execCmdSetDdramAddress (a : BitVec 7) (s : State) : Host.Outcome State Fault Refusal :=
  sendCommand (.cmdSetDdramAddress a) s

/-- The nibble 0x3 by itself (R114). -/
def execNibInit8bit (s : State) : Host.Outcome State Fault Refusal :=
  performTransport nibInit8bitSteps s

/-- The nibble 0x2 by itself (R114). That the receiver is then in 4-bit mode is
credited to INIT's state 5, not to the nibble alone (20_memory.md R71, log 14). -/
def execNibInit4bit (s : State) : Host.Outcome State Fault Refusal :=
  performTransport nibInit4bitSteps s

end Sys2Proof.Machine
end

