-- ==== Sys2Proof/Machine/Commands.lean ====
section
/-! DEFINITION. The steady-state command requests (42_commands.md R180 to R203). -/

namespace Sys2Proof.Machine

/-- One command transfer and nothing more. -/
def commandSteps (v : Byte) : List Micro := sendByte (.lit v) .command

/-- One command transfer and the slow-operation delay (R180, R181). -/
def slowCommandSteps (v : Byte) : List Micro := commandSteps v ++ [.sleep .slow]

/-- Assign one flag, then send the whole display-control bundle (R187). -/
def displayControlSteps (f : Field) (v : Bool) : List Micro :=
  .assign [(f, v)] :: sendByte .displayControl .command

/-- Assign one flag, then send the whole entry-mode bundle (R198). -/
def entryModeSteps (f : Field) (v : Bool) : List Micro :=
  .assign [(f, v)] :: sendByte .entryMode .command

/-- Assign the backlight flag, then one write with the enable line low (R194, R195). -/
def backlightSteps (v : Bool) : List Micro := [.assign [(.backlightOn, v)], .write .zero]

/-- The micro-steps of clear (R180). -/
def clearSteps : List Micro := slowCommandSteps 0x01

/-- CLEAR: clear display, then T_SLOW (R180). -/
def execClear (s : State) : Host.Outcome State Fault Refusal :=
  performRequest .clear clearSteps s

/-- The micro-steps of home (R181). -/
def homeSteps : List Micro := slowCommandSteps 0x02

/-- HOME: return home, then T_SLOW (R181). -/
def execHome (s : State) : Host.Outcome State Fault Refusal :=
  performRequest .home homeSteps s

/-- The micro-steps of setcursor (R182). -/
def setcursorSteps (c : Cfg) (col row : BitVec 8) : List Micro := commandSteps (setcursorByte c col row)

/-- SETCURSOR: set DDRAM address (R182). -/
def execSetcursor (col row : BitVec 8) (s : State) : Host.Outcome State Fault Refusal :=
  performRequest (.setcursor col row) (setcursorSteps s.cfg col row) s

/-- The micro-steps of displayOn (R188). -/
def displayOnSteps : List Micro := displayControlSteps .displayOn true

/-- DISPLAY_ON (R188). -/
def execDisplayOn (s : State) : Host.Outcome State Fault Refusal :=
  performRequest .displayOn displayOnSteps s

/-- The micro-steps of displayOff (R189). -/
def displayOffSteps : List Micro := displayControlSteps .displayOn false

/-- DISPLAY_OFF (R189). -/
def execDisplayOff (s : State) : Host.Outcome State Fault Refusal :=
  performRequest .displayOff displayOffSteps s

/-- The micro-steps of cursorOn (R190). -/
def cursorOnSteps : List Micro := displayControlSteps .cursorOn true

/-- CURSOR_ON (R190). -/
def execCursorOn (s : State) : Host.Outcome State Fault Refusal :=
  performRequest .cursorOn cursorOnSteps s

/-- The micro-steps of cursorOff (R191). -/
def cursorOffSteps : List Micro := displayControlSteps .cursorOn false

/-- CURSOR_OFF (R191). -/
def execCursorOff (s : State) : Host.Outcome State Fault Refusal :=
  performRequest .cursorOff cursorOffSteps s

/-- The micro-steps of blinkOn (R192). -/
def blinkOnSteps : List Micro := displayControlSteps .blinkOn true

/-- BLINK_ON (R192). -/
def execBlinkOn (s : State) : Host.Outcome State Fault Refusal :=
  performRequest .blinkOn blinkOnSteps s

/-- The micro-steps of blinkOff (R193). -/
def blinkOffSteps : List Micro := displayControlSteps .blinkOn false

/-- BLINK_OFF (R193). -/
def execBlinkOff (s : State) : Host.Outcome State Fault Refusal :=
  performRequest .blinkOff blinkOffSteps s

/-- The micro-steps of backlightOn (R194). -/
def backlightOnSteps : List Micro := backlightSteps true

/-- BACKLIGHT_ON (R194). -/
def execBacklightOn (s : State) : Host.Outcome State Fault Refusal :=
  performRequest .backlightOn backlightOnSteps s

/-- The micro-steps of backlightOff (R195). -/
def backlightOffSteps : List Micro := backlightSteps false

/-- BACKLIGHT_OFF (R195). -/
def execBacklightOff (s : State) : Host.Outcome State Fault Refusal :=
  performRequest .backlightOff backlightOffSteps s

/-- The micro-steps of scrollLeft (R196). -/
def scrollLeftSteps : List Micro := commandSteps 0x18

/-- SCROLL_LEFT: cursor/display shift, move display, left (R196). -/
def execScrollLeft (s : State) : Host.Outcome State Fault Refusal :=
  performRequest .scrollLeft scrollLeftSteps s

/-- The micro-steps of scrollRight (R197). -/
def scrollRightSteps : List Micro := commandSteps 0x1C

/-- SCROLL_RIGHT: cursor/display shift, move display, right (R197). -/
def execScrollRight (s : State) : Host.Outcome State Fault Refusal :=
  performRequest .scrollRight scrollRightSteps s

/-- The micro-steps of leftToRight (R198). -/
def leftToRightSteps : List Micro := entryModeSteps .entryLeft true

/-- LEFT_TO_RIGHT (R198). -/
def execLeftToRight (s : State) : Host.Outcome State Fault Refusal :=
  performRequest .leftToRight leftToRightSteps s

/-- The micro-steps of rightToLeft (R199). -/
def rightToLeftSteps : List Micro := entryModeSteps .entryLeft false

/-- RIGHT_TO_LEFT (R199). -/
def execRightToLeft (s : State) : Host.Outcome State Fault Refusal :=
  performRequest .rightToLeft rightToLeftSteps s

/-- The micro-steps of shiftInc (R200). -/
def shiftIncSteps : List Micro := entryModeSteps .entryShift true

/-- SHIFT_INC (R200). -/
def execShiftInc (s : State) : Host.Outcome State Fault Refusal :=
  performRequest .shiftInc shiftIncSteps s

/-- The micro-steps of shiftDec (R201). -/
def shiftDecSteps : List Micro := entryModeSteps .entryShift false

/-- SHIFT_DEC (R201). -/
def execShiftDec (s : State) : Host.Outcome State Fault Refusal :=
  performRequest .shiftDec shiftDecSteps s

end Sys2Proof.Machine
end

