-- ==== Sys2Proof/Machine/Data.lean ====
section
/-! DEFINITION. The data requests (43_data.md): PUTC and CGDEF. -/

namespace Sys2Proof.Machine

/-- PUTC's micro-steps: one DATA transfer (R220). -/
def putcSteps (cp : BitVec 24) : List Micro := sendByte (.lit (characterByte cp)) .data

/-- PUTC (R220). -/
def execPutc (cp : BitVec 24) (s : State) : Host.Outcome State Fault Refusal :=
  performRequest (.putc cp) (putcSteps cp) s

/-- CGDEF's micro-steps: the CGRAM address, then one DATA transfer per glyph row (R225). -/
def cgdefSteps (slot : BitVec 8) (glyph : List Byte) : List Micro :=
  sendByte (.lit (cgramByte slot)) .command ++ glyph.flatMap (fun r => sendByte (.lit r) .data)

/-- CGDEF (R225). -/
def execCgdef (slot : BitVec 8) (glyph : List Byte) (s : State) : Host.Outcome State Fault Refusal :=
  performRequest (.cgdef slot glyph) (cgdefSteps slot glyph) s

end Sys2Proof.Machine
end

