-- ==== Sys2Proof/Machine/Init.lean ====
section
/-! DEFINITION. INIT (41_init.md): the five-state bring-up, the four commands and the backlight restore,
as one list of 57 micro-steps. -/

namespace Sys2Proof.Machine

/-- States 2 to 4: the nibble 0x3 (R162 to R164). -/
def force8bit : List Micro := nibInit8bitSteps

/-- State 5: `WriteNibble(0x20)`, whose last settle ends with the receiver in 4-bit mode (R165, R166). -/
def switchTo4bit : List Micro :=
  [.write (.nibble (.lit 0x20) .high .command true), .sleep .edge,
   .write (.nibble (.lit 0x20) .high .command false), .sleepReady .edge]

/-- Micro-steps 0 to 19: states 1 to 5 (R161 to R166). -/
def bringUpSteps : List Micro :=
  [.sleep .power] ++ force8bit ++ [.sleep .init1] ++ force8bit ++ [.sleep .init2] ++
    force8bit ++ [.sleep .init3] ++ switchTo4bit

/-- Micro-steps 20 to 56: P1 to P5 (R167 to R169). -/
def programSteps (c : Cfg) : List Micro :=
  sendByte (.lit (functionSetByte c)) .command ++
    [.assign [(.displayOn, true), (.cursorOn, false), (.blinkOn, false)]] ++
    sendByte .displayControl .command ++
    [.assign [(.entryLeft, true), (.entryShift, false)]] ++
    sendByte .entryMode .command ++
    sendByte (.lit 0x01) .command ++ [.sleep .slow] ++
    [.assign [(.backlightOn, true)], .write .zero]

/-- The 57 micro-steps of R167. -/
def initSteps (c : Cfg) : List Micro := bringUpSteps ++ programSteps c

/-- INIT (R167). -/
def execInit (s : State) : Host.Outcome State Fault Refusal :=
  performRequest .init (initSteps s.cfg) s

end Sys2Proof.Machine
end

