-- ==== Sys2Proof/Machine/Program.lean ====
section
/-! DEFINITION. The micro-step list of every instruction (00_scope.md R17), which the sequencer's PC
indexes, and the sequencer's own move inside a request (10_state.md R22). -/

namespace Sys2Proof.Machine

/-- The list PC indexes: the same list the instruction's meaning performs. -/
def program (c : Cfg) : Instr → List Micro
  | .init => initSteps c
  | .clear => clearSteps
  | .home => homeSteps
  | .putc cp => putcSteps cp
  | .setcursor col row => setcursorSteps c col row
  | .displayOn => displayOnSteps
  | .displayOff => displayOffSteps
  | .cursorOn => cursorOnSteps
  | .cursorOff => cursorOffSteps
  | .blinkOn => blinkOnSteps
  | .blinkOff => blinkOffSteps
  | .backlightOn => backlightOnSteps
  | .backlightOff => backlightOffSteps
  | .cgdef slot glyph => cgdefSteps slot glyph
  | .scrollLeft => scrollLeftSteps
  | .scrollRight => scrollRightSteps
  | .leftToRight => leftToRightSteps
  | .rightToLeft => rightToLeftSteps
  | .shiftInc => shiftIncSteps
  | .shiftDec => shiftDecSteps
  | .cmdClearDisplay => commandByteSteps .cmdClearDisplay
  | .cmdReturnHome => commandByteSteps .cmdReturnHome
  | .cmdEntryModeSet iBit sBit => commandByteSteps (.cmdEntryModeSet iBit sBit)
  | .cmdDisplayControl dBit cBit bBit => commandByteSteps (.cmdDisplayControl dBit cBit bBit)
  | .cmdCursorDisplayShift mBit rBit => commandByteSteps (.cmdCursorDisplayShift mBit rBit)
  | .cmdFunctionSet lBit nBit fBit => commandByteSteps (.cmdFunctionSet lBit nBit fBit)
  | .cmdSetCgramAddress a => commandByteSteps (.cmdSetCgramAddress a)
  | .cmdSetDdramAddress a => commandByteSteps (.cmdSetDdramAddress a)
  | .nibInit8bit => nibInit8bitSteps
  | .nibInit4bit => nibInit4bitSteps

/-- The sequencer's move while BUSY = 1: the next micro-step, or, when PC has reached the end of the
list, the completion actions (R22). -/
def State.advance (s : State) : State :=
  match s.active with
  | none => s
  | some i =>
    match (program s.cfg i)[s.pc]? with
    | some m => (s.micro m).state
    | none => s.complete

end Sys2Proof.Machine
end

