-- ==== Sys2Proof/Machine/Dispatch.lean ====
section
/-! DEFINITION. exec: one arm per instruction, each one direct call of its meaning. -/

namespace Sys2Proof.Machine

def exec (i : Instr) (s : State) : Host.Outcome State Fault Refusal :=
  match i with
  | .init => Sys2Proof.Machine.execInit s
  | .clear => Sys2Proof.Machine.execClear s
  | .home => Sys2Proof.Machine.execHome s
  | .putc cp => Sys2Proof.Machine.execPutc cp s
  | .setcursor col row => Sys2Proof.Machine.execSetcursor col row s
  | .displayOn => Sys2Proof.Machine.execDisplayOn s
  | .displayOff => Sys2Proof.Machine.execDisplayOff s
  | .cursorOn => Sys2Proof.Machine.execCursorOn s
  | .cursorOff => Sys2Proof.Machine.execCursorOff s
  | .blinkOn => Sys2Proof.Machine.execBlinkOn s
  | .blinkOff => Sys2Proof.Machine.execBlinkOff s
  | .backlightOn => Sys2Proof.Machine.execBacklightOn s
  | .backlightOff => Sys2Proof.Machine.execBacklightOff s
  | .cgdef slot glyph => Sys2Proof.Machine.execCgdef slot glyph s
  | .scrollLeft => Sys2Proof.Machine.execScrollLeft s
  | .scrollRight => Sys2Proof.Machine.execScrollRight s
  | .leftToRight => Sys2Proof.Machine.execLeftToRight s
  | .rightToLeft => Sys2Proof.Machine.execRightToLeft s
  | .shiftInc => Sys2Proof.Machine.execShiftInc s
  | .shiftDec => Sys2Proof.Machine.execShiftDec s
  | .cmdClearDisplay => Sys2Proof.Machine.execCmdClearDisplay s
  | .cmdReturnHome => Sys2Proof.Machine.execCmdReturnHome s
  | .cmdEntryModeSet iBit sBit => Sys2Proof.Machine.execCmdEntryModeSet iBit sBit s
  | .cmdDisplayControl dBit cBit bBit => Sys2Proof.Machine.execCmdDisplayControl dBit cBit bBit s
  | .cmdCursorDisplayShift mBit rBit => Sys2Proof.Machine.execCmdCursorDisplayShift mBit rBit s
  | .cmdFunctionSet lBit nBit fBit => Sys2Proof.Machine.execCmdFunctionSet lBit nBit fBit s
  | .cmdSetCgramAddress a => Sys2Proof.Machine.execCmdSetCgramAddress a s
  | .cmdSetDdramAddress a => Sys2Proof.Machine.execCmdSetDdramAddress a s
  | .nibInit8bit => Sys2Proof.Machine.execNibInit8bit s
  | .nibInit4bit => Sys2Proof.Machine.execNibInit4bit s

end Sys2Proof.Machine
end

