-- ==== Sys2Proof/Machine/Fetch.lean ====
section
/-! DEFINITION. Taking the next request from the port (10_state.md R36, 30_encoding.md R109), and placing
a numbered table word where the next step takes it. -/

namespace Sys2Proof.Machine

/-- What the request port offers. -/
inductive Offer where
  /-- No word, or not yet all the words of a CGDEF: the block waits. -/
  | nothing
  /-- One request's words, and the words after them. -/
  | request (q : Word) (payload rest : List Word)
  deriving DecidableEq, Repr

/-- Split off the first request: its length is told from its opcode alone (R109). -/
def fetchRequest : List Word → Offer
  | [] => .nothing
  | q :: rest =>
    if payloadLength q ≤ rest.length then
      .request q (rest.take (payloadLength q)) (rest.drop (payloadLength q))
    else .nothing

/-- A state in which the next step takes code `c` and nothing else first: the block idle, a transport word
in the transport latch, a request at the head of the port with the transport latch empty. -/
def State.withCode (c : Code) (s : State) : State :=
  match c with
  | .request q payload => { s with active := none, xport := none, port := q :: payload ++ s.port }
  | .transport t => { s with active := none, xport := some t }

end Sys2Proof.Machine
end

