-- ==== Sys2Proof/Machine/Step.lean ====
section
/-! DEFINITION. One step of the block. Inside a request it is one micro-step (10_state.md R22); idle, it
takes the next request from the port and performs it (R36, log 1). -/

namespace Sys2Proof.Machine

/-- Perform a code in an idle block: a decoded instruction is executed, a reserved one is refused and
nothing else happens (60_exceptions.md R247, R250). -/
def runCode (c : Code) (s : State) : Host.Outcome State Fault Refusal :=
  match decode c with
  | .ok i => exec i s
  | .error _ => .next s.refuse

/-- One step. With nothing to do, the idle block stays as it is (R292: the run has ended). -/
def step (s : State) : Host.Outcome State Fault Refusal :=
  match s.busy with
  | true => .next s.advance
  | false =>
    match s.xport with
    | some t => runCode (.transport t) { s with xport := none }
    | none =>
      match fetchRequest s.port with
      | .nothing => .next s
      | .request q payload rest => runCode (.request q payload) { s with port := rest }

/-- `s` with the instruction whose bits are `w`, numbered as the opcode table numbers them, placed where
the next step takes it. -/
def State.withFetchWord (s : State) (nbits w : Nat) : State := s.withCode (tableCode nbits w)

end Sys2Proof.Machine
end

