-- ==== Sys2Proof/Safety.lean ====
section
/-! DEFINITION. What counts as a good state, and the words the statements use: the events a transfer makes
(40_transport.md R145), what the receiver makes of it (20_memory.md R70), and the state a request leaves
when the bus fails none of its writes. -/

namespace Sys2Proof.Machine

/-! ## Good states -/

/-- A run the rules speak of: no use before INIT, nothing refused (10_state.md R30). -/
def State.defined (s : State) : Bool := !s.fBeforeInit && !s.refused

/-- A state in which the rules also speak of what the controller received (10_state.md R30). -/
def State.trusted (s : State) : Bool := s.defined && s.synced

/-- Is the next write of the list one that lowers the enable line? -/
def strobeDue : List Micro → Bool
  | [] => false
  | .write .zero :: _ => false
  | .write (.nibble _ _ _ en) :: _ => !en
  | .sleep _ :: rest => strobeDue rest
  | .sleepReady _ :: rest => strobeDue rest
  | .assign _ :: rest => strobeDue rest

/-- The mode of the low nibble, when the next nibble the list latches is the low half of a byte. -/
def lowDue : List Micro → Option Mode
  | [] => none
  | .write (.nibble _ .low m false) :: _ => some m
  | .write (.nibble _ .high _ false) :: _ => none
  | .write _ :: rest => lowDue rest
  | .sleep _ :: rest => lowDue rest
  | .sleepReady _ :: rest => lowDue rest
  | .assign _ :: rest => lowDue rest

/-- What is left of the micro-step list of the request in progress; nothing in an idle block. -/
def State.remaining (s : State) : List Micro :=
  match s.active with
  | none => []
  | some i => (program s.cfg i).drop s.pc

/-- The receiver stands where the remaining micro-steps need it: ready for a high nibble, or holding one
of the mode whose low nibble comes next. -/
def rxInPhase (r : Rx) (l : List Micro) : Prop :=
  match lowDue l with
  | none => r = .hi
  | some m => ∃ h, r = .lo h m

/-- What a request in progress must look like (10_state.md R21, R22, R29; 41_init.md R166, R170). -/
structure InProgress (s : State) (i : Instr) : Prop where
  isRequest : i.isRequest = true
  wellFormed : i.WellFormed
  opcode : s.op = requestOpcode i
  pcInList : s.pc ≤ (program s.cfg i).length
  countsWrites : s.k = writeCount ((program s.cfg i).take s.pc)
  initUnsynced : i = .init → s.initDone = false ∧ s.synced = false
  initUnknown : i = .init → s.pc < 20 → s.rx = .unknown
  initReady : i = .init → 20 ≤ s.pc → s.rx ≠ .unknown
  strobe : 0 < s.k → lineHigh s.latch (enMask s.cfg) = strobeDue s.remaining

/-- The invariant of every run: the configuration is one that can be constructed, PC and the write count
stay inside the longest list (R21, R42: PC never wraps, STATUS.k has room), the working copy agrees
with the shadow register wherever R31 says so, SYNCED implies INIT_DONE and a receiver that is not
UNKNOWN, and a receiver that is not UNKNOWN is in phase with the enable line and the nibbles to come
(so an idle, synchronised block stands at a byte boundary with the enable line low). -/
structure Inv (s : State) : Prop where
  validCfg : cfgValid s.cfg = true
  noTransportWord : s.xport = none
  pcFits : s.pc ≤ 72
  kFits : s.k ≤ 36
  idleCopy : s.busy = false → s.w = s.sh
  optimisticCopy : s.cfg.policy = .optimistic → s.w = s.sh
  syncedInit : s.synced = true → s.initDone = true
  syncedKnown : s.synced = true → s.rx ≠ .unknown
  inProgress : ∀ i, s.active = some i → InProgress s i
  knownStrobe : s.rx ≠ .unknown → lineHigh s.latch (enMask s.cfg) = strobeDue s.remaining
  knownPhase : s.rx ≠ .unknown → rxInPhase s.rx s.remaining

/-! ## What a transfer does -/

/-- The events of `SendByte(v, mode)` with backlight flag `bl`: four writes, each followed by T_EDGE
(40_transport.md R145). -/
def transferEvents (c : Cfg) (bl : Bool) (t : Transfer) : List Event :=
  let h := highNibbleByte c t.byte t.rs ||| backlightBit c bl
  let l := lowNibbleByte c t.byte t.rs ||| backlightBit c bl
  [.wr c.addr (h ||| enMask c), .dly c.tEdge, .wr c.addr h, .dly c.tEdge,
   .wr c.addr (l ||| enMask c), .dly c.tEdge, .wr c.addr l, .dly c.tEdge]

/-- The events of `WriteNibble` of the nibble byte `nm` (40_transport.md R142). -/
def nibbleEvents (c : Cfg) (bl : Bool) (nm : Byte) : List Event :=
  let b := nm ||| backlightBit c bl
  [.wr c.addr (b ||| enMask c), .dly c.tEdge, .wr c.addr b, .dly c.tEdge]

/-- The receiver takes the two nibbles of each transfer, high first (20_memory.md R69, R70). -/
def State.received (ts : List Transfer) (s : State) : State :=
  ts.foldl (fun s t => (s.latchNibble (t.byte.extractLsb' 4 4) t.rs).latchNibble (t.byte.extractLsb' 0 4) t.rs) s

/-- The state a request other than INIT leaves when no write fails (10_state.md R36, 60_exceptions.md
R242, R243): its opcode, its numbers of micro-steps and writes, the shadow register, the last byte
written, its events, and the transfers it sent. Everything it does not name is unchanged. -/
def State.afterRequest (s : State) (op : Byte) (steps writes : Nat) (sh' : Shadow) (last : Byte)
    (events : List Event) (ts : List Transfer) : State :=
  { s.received ts with
    active := none, op := op, pc := steps, k := writes
    sh := sh', w := sh'
    fBeforeInit := s.fBeforeInit || !s.initDone
    status := okStatus
    latch := last
    trace := s.trace ++ events ++ [.resp okStatus]
    bus := s.bus.drop writes, draws := s.draws + writes }

/-- The state of a request that sends one byte: `afterRequest` with the transfer's events and then `tail`. -/
def State.afterTransfer (s : State) (op : Byte) (steps : Nat) (sh' : Shadow) (t : Transfer)
    (tail : List Event) : State :=
  s.afterRequest op steps 4 sh' (lowNibbleByte s.cfg t.byte t.rs ||| backlightBit s.cfg sh'.backlightOn)
    (transferEvents s.cfg sh'.backlightOn t ++ tail) [t]

/-- The state a command byte sent by itself leaves when no write fails: a transfer, eight micro-steps and
four writes; an idle block counts them from 0 (log 12). -/
def State.afterCommand (s : State) (v : Byte) : State :=
  let t : Transfer := { rs := .command, byte := v }
  { s.received [t] with
    pc := (if s.busy then s.pc else 0) + 8
    k := (if s.busy then s.k else 0) + 4
    latch := lowNibbleByte s.cfg v .command ||| backlightBit s.cfg s.w.backlightOn
    trace := s.trace ++ transferEvents s.cfg s.w.backlightOn t
    bus := s.bus.drop 4, draws := s.draws + 4 }

/-- The state an initialization nibble sent by itself leaves when no write fails: one latched nibble. -/
def State.afterNibble (s : State) (n : Nibble) : State :=
  let nm := dataBits s.cfg n
  { s.latchNibble n .command with
    pc := (if s.busy then s.pc else 0) + 4
    k := (if s.busy then s.k else 0) + 2
    latch := nm ||| backlightBit s.cfg s.w.backlightOn
    trace := s.trace ++ nibbleEvents s.cfg s.w.backlightOn nm
    bus := s.bus.drop 2, draws := s.draws + 2 }

/-- The shadow register INIT leaves (70_reset_and_hazards.md R272). -/
def initShadow : Shadow :=
  { backlightOn := true, displayOn := true, cursorOn := false, blinkOn := false
    entryLeft := true, entryShift := false }

/-- A `Resp` event. -/
def Event.isResp : Event → Bool
  | .resp _ => true
  | _ => false

/-- A `Wr` event. -/
def Event.isWr : Event → Bool
  | .wr _ _ => true
  | _ => false

end Sys2Proof.Machine
end

