-- ==== Sys2Proof/Certificates/Slice0/Obligations.lean ====
section
/-! DEFINITION. The statements for the provers. -/

open Sys2Proof Sys2Proof.Machine

/-! ## Encoding -/

/-- Decoding an encoded well-formed instruction gives it back: no bit of an operand is dropped, and no two
instructions share a code (30_encoding.md R104, R105, R107, R112, R114). -/
def Obligations.DecodeEncodeRoundTrip : Prop :=
  ∀ i : Instr, i.WellFormed → decode (encode i) = .ok i

/-- Every request that decodes has exactly one spelling: the encoder gives the same words, and the
instruction is a well-formed request (R104 to R107). -/
def Obligations.RequestSpellingUnique : Prop :=
  ∀ (q : Word) (payload : List Word) (i : Instr), decode (.request q payload) = .ok i →
    encode i = .request q payload ∧ i.WellFormed ∧ i.isRequest = true

/-- A few words of 95_test_vectors.md, one per format and family, decode to the instruction they stand for. -/
def Obligations.SampleWordsDecode : Prop :=
  decode (.request 0x00000001 []) = .ok .init ∧
  decode (.request 0x00000002 []) = .ok .clear ∧
  decode (.request 0x00010305 []) = .ok (.setcursor 3 1) ∧
  decode (.request 0x004E2D04 []) = .ok (.putc 0x4E2D) ∧
  decode (.request 0x0000010E [0x1F1F0A00, 0x0000040E]) =
    .ok (.cgdef 1 [0x00, 0x0A, 0x1F, 0x1F, 0x0E, 0x04, 0x00, 0x00]) ∧
  decode (.request 0x00000014 []) = .ok .shiftDec ∧
  decode (.transport (.command 0x28)) = .ok (.cmdFunctionSet false true false) ∧
  decode (.transport (.command 0xC3)) = .ok (.cmdSetDdramAddress 0x43) ∧
  decode (.transport (.nibble 0x2)) = .ok .nibInit4bit

/-- The command byte patterns of R112: the most significant 1 bit names the command, the bits below it are
its fields, don't-care bits are ignored, and 0x00 is no command. -/
def Obligations.CommandBytePatterns : Prop :=
  (∀ a : BitVec 7, decode (.transport (.command (1#1 ++ a))) = .ok (.cmdSetDdramAddress a)) ∧
  (∀ a : BitVec 6, decode (.transport (.command (1#2 ++ a))) = .ok (.cmdSetCgramAddress a)) ∧
  (∀ (l n f : Bool) (x : BitVec 2), decode (.transport (.command
      (1#3 ++ BitVec.ofBool l ++ BitVec.ofBool n ++ BitVec.ofBool f ++ x))) = .ok (.cmdFunctionSet l n f)) ∧
  (∀ (m r : Bool) (x : BitVec 2), decode (.transport (.command
      (1#4 ++ BitVec.ofBool m ++ BitVec.ofBool r ++ x))) = .ok (.cmdCursorDisplayShift m r)) ∧
  (∀ d c b : Bool, decode (.transport (.command
      (1#5 ++ BitVec.ofBool d ++ BitVec.ofBool c ++ BitVec.ofBool b))) = .ok (.cmdDisplayControl d c b)) ∧
  (∀ i s : Bool, decode (.transport (.command
      (1#6 ++ BitVec.ofBool i ++ BitVec.ofBool s))) = .ok (.cmdEntryModeSet i s)) ∧
  (∀ x : BitVec 1, decode (.transport (.command (1#7 ++ x))) = .ok .cmdReturnHome) ∧
  decode (.transport (.command 1)) = .ok .cmdClearDisplay ∧
  decode (.transport (.command 0)) = .error .reservedCommand

/-- A request word that spells no operation (R106): opcode 0x00 or 0x15 to 0xFF, or a non-zero bit in a
must-be-zero field of its format. -/
def Sys2Proof.reservedWord (q : Word) : Prop :=
  q.extractLsb' 0 8 = 0x00 ∨ 0x14 < q.extractLsb' 0 8 ∨
    (q.extractLsb' 0 8 ≠ 0x04 ∧ q.extractLsb' 0 8 ≠ 0x05 ∧ q.extractLsb' 0 8 ≠ 0x0E ∧
      q.extractLsb' 8 24 ≠ 0) ∨
    (q.extractLsb' 0 8 = 0x05 ∧ q.extractLsb' 24 8 ≠ 0) ∨
    (q.extractLsb' 0 8 = 0x0E ∧ q.extractLsb' 16 16 ≠ 0)

/-- A reserved request at the head of an idle block's port is refused: the step sets REFUSED and changes
nothing else of the block: no event, no response, no other state. Any other word spells an operation,
whatever its operands (R106). -/
def Obligations.ReservedRequestRefused : Prop :=
  ∀ (s : State) (q : Word) (payload rest : List Word),
    s.busy = false → s.xport = none → s.port = q :: payload ++ rest →
    payload.length = (if q.extractLsb' 0 8 = 0x0E then 2 else 0) →
    (reservedWord q → ∃ t, step s = .next t ∧ t = { s with refused := true, port := t.port }) ∧
    (¬ reservedWord q → ∃ i, decode (.request q payload) = .ok i)

/-- The words of a refused request leave the port: three for opcode 0x0E, one for every other. That they
leave it is the model's reading (log 19), from the length rule of 30_encoding.md. -/
def Obligations.RefusedWordsLeavePort : Prop :=
  ∀ (s : State) (q : Word) (payload rest : List Word),
    s.busy = false → s.xport = none → s.port = q :: payload ++ rest →
    payload.length = (if q.extractLsb' 0 8 = 0x0E then 2 else 0) → reservedWord q →
    ∃ t, step s = .next t ∧ t.port = rest

/-! ## Fetching, waiting, stepping -/

/-- An idle block takes a whole request from the head of its port and performs it: the step is exec of the
decoded instruction, in the state whose port has lost those words. That the port is a list of words (log 18)
and that one idle step is the whole exec of the request at its head (log 1) are the model's choices; R36 and
R109 give the acceptance of one request at a time and the number of its words. -/
def Obligations.StepRunsDecodedRequest : Prop :=
  ∀ (s : State) (q : Word) (payload rest : List Word) (i : Instr),
    s.busy = false → s.xport = none → s.port = q :: payload ++ rest →
    decode (.request q payload) = .ok i →
    step s = exec i { s with port := rest }

/-- The model's own path for the rows that are no request (log 13): the step is exec of the decoded
transport word, in the state whose transport latch is empty. -/
def Obligations.StepRunsDecodedTransportWord : Prop :=
  ∀ (s : State) (t : TransportWord) (i : Instr),
    s.busy = false → s.xport = some t → decode (.transport t) = .ok i →
    step s = exec i { s with xport := none }

/-- With no word at the port, or only part of a CGDEF, the idle block waits: nothing changes. -/
def Obligations.IdleBlockWaits : Prop :=
  ∀ s : State, s.busy = false → s.xport = none →
    (s.port = [] ∨ ∃ q rest, s.port = q :: rest ∧ q.extractLsb' 0 8 = 0x0E ∧ rest.length < 2) →
    step s = .next s

/-- While a request is being performed the port holds the host (R36): no step takes a word from the port.
That exec of a request in a busy block, a call that no step makes, answers the same state is the model's
choice (log 18). -/
def Obligations.BusyPortHoldsHost : Prop :=
  (∀ (i : Instr) (s : State), i.isRequest = true → s.busy = true → exec i s = .next s) ∧
  (∀ s t : State, s.busy = true → step s = .next t → t.port = s.port)

/-- Inside a request, a step performs the micro-step PC points at. If that is a write and the bus fails it,
the request ends there with a TransportFailure; in every other case PC goes up by exactly one and the request
goes on. At the end of the list the step performs the completion actions (R242, and R171 for INIT) and ends
the request; acceptance sets PC to 0 (R22). -/
def Obligations.PcAdvancesByOne : Prop :=
  (∀ (s : State) (i : Instr), (s.accept i).pc = 0) ∧
  (∀ (s : State) (i : Instr), s.active = some i → ∃ t, step s = .next t ∧
    match (program s.cfg i)[s.pc]? with
    | some m =>
      if m.isWrite = true ∧ s.answerAt 0 ≠ .ok then t.active = none ∧ t.status.code = .transportFailure
      else t.active = some i ∧ t.pc = s.pc + 1
    | none =>
      t.active = none ∧ t.status.code = .ok ∧
      t.trace = s.trace ++ [.resp t.status] ∧ t.sh = (if s.cfg.policy = .confirmed then s.w else s.sh) ∧
      t.initDone = (s.initDone || i == .init) ∧ t.synced = (s.synced || i == .init))

/-- Performing a request at once is the same as stepping through it: from its acceptance, the block's
steps (one micro-step each) reach the state exec answers, within the list's length and one step for the
completion actions, whatever the bus answers (R17, R22, R242, R244). -/
def Obligations.MicroStepsReachExec : Prop :=
  ∀ (i : Instr) (s : State), i.isRequest = true → s.busy = false →
    ∃ n, n ≤ (program s.cfg i).length + 1 ∧ core.run n (s.accept i) = exec i s

/-- No step of the block ever stops: there is a next state from every state. -/
def Obligations.EveryStepGoesOn : Prop := ∀ s : State, ∃ t, step s = .next t

/-- Every accepted request ends, idle, with exactly one response, the last event, which carries STATUS
(R37): after its last micro-step, or at its failing write. -/
def Obligations.OneResponsePerRequest : Prop :=
  ∀ (i : Instr) (s : State), i.isRequest = true → s.busy = false →
    ∃ t ev, exec i s = .next t ∧ t.busy = false ∧
      t.trace = s.trace ++ ev ++ [.resp t.status] ∧ (∀ e ∈ ev, e.isResp = false)

/-! ## Invariants and whole-machine rules -/

/-- Every step keeps the invariant, from every state that has it. -/
def Obligations.StepKeepsInvariant : Prop :=
  ∀ s t : State, Inv s → step s = .next t → Inv t

/-- Construction with a valid configuration, whatever P draws, gives the invariant; so does reset. -/
def Obligations.ConstructionHasInvariant : Prop :=
  (∀ (c : Cfg) (p : Byte), cfgValid c = true → Inv (State.fresh c p)) ∧ Inv State.reset

/-- CFG is never written after construction (R28). -/
def Obligations.ConfigurationNeverWritten : Prop :=
  ∀ s t : State, step s = .next t → t.cfg = s.cfg

/-- No step clears F_BEFORE_INIT or REFUSED (R30). -/
def Obligations.StickyMarksNeverCleared : Prop :=
  ∀ s t : State, step s = .next t →
    (s.fBeforeInit = true → t.fBeforeInit = true) ∧ (s.refused = true → t.refused = true)

/-- No step takes back an event or a delivered transfer (R19, R72). -/
def Obligations.RecordsOnlyGrow : Prop :=
  ∀ s t : State, step s = .next t → s.trace <+: t.trace ∧ s.xfers <+: t.xfers

/-- INIT_DONE is written by INIT alone; SYNCED is set by INIT alone (R30). -/
def Obligations.InitFlagsOnlyByInit : Prop :=
  ∀ (i : Instr) (s t : State), i ≠ .init → exec i s = .next t →
    t.initDone = s.initDone ∧ (t.synced = true → s.synced = true)

/-- The configuration, the port, the transport latch and REFUSED are no instruction's to change; the bus
has given some number of answers, one per write, and every write went to ADDR (the event shows it, log 21). -/
def Obligations.ExecFrame : Prop :=
  ∀ (i : Instr) (s t : State), exec i s = .next t →
    t.cfg = s.cfg ∧ t.port = s.port ∧ t.xport = s.xport ∧ t.refused = s.refused ∧
    (∃ n, t.bus = s.bus.drop n ∧ t.draws = s.draws + n ∧
      t.trace.countP Event.isWr = s.trace.countP Event.isWr + n) ∧
    ∃ ev, t.trace = s.trace ++ ev ∧ ∀ a b, .wr a b ∈ ev → a = s.cfg.addr

/-- Each flag of the shadow register is written by the requests R23 lists for it and by no other, whatever
the bus answers and whatever the commit policy. -/
def Obligations.ShadowWrittenOnlyByItsRequests : Prop :=
  ∀ (i : Instr) (s t : State), exec i s = .next t →
    (i ≠ .backlightOn → i ≠ .backlightOff → i ≠ .init → t.sh.backlightOn = s.sh.backlightOn) ∧
    (i ≠ .displayOn → i ≠ .displayOff → i ≠ .init → t.sh.displayOn = s.sh.displayOn) ∧
    (i ≠ .cursorOn → i ≠ .cursorOff → i ≠ .init → t.sh.cursorOn = s.sh.cursorOn) ∧
    (i ≠ .blinkOn → i ≠ .blinkOff → i ≠ .init → t.sh.blinkOn = s.sh.blinkOn) ∧
    (i ≠ .leftToRight → i ≠ .rightToLeft → i ≠ .init → t.sh.entryLeft = s.sh.entryLeft) ∧
    (i ≠ .shiftInc → i ≠ .shiftDec → i ≠ .init → t.sh.entryShift = s.sh.entryShift)

/-- The block never reads the display: replace the expander's latch, the receiver's state and the
delivered transfers by any others, and exec ends in the same state but for those three (R27, R61). -/
def Obligations.DisplayNeverRead : Prop :=
  ∀ (i : Instr) (s : State) (p : Byte) (r : Rx) (x : List Transfer), ∃ t t' : State,
    exec i s = .next t ∧
    exec i { s with latch := p, rx := r, xfers := x } = .next t' ∧
    t' = { t with latch := t'.latch, rx := t'.rx, xfers := t'.xfers }

/-- Every argument of ExpanderWrite is 0x00 or a nibble, a mode bit and the enable line, so its backlight
line is low; and every write of every micro-step carries the backlight flag of the working copy on that line,
and holds the read/write line low (R141, R73). On the lines of R100 the nibble is bits 7:4, the mode 0x00 or
0x01, the enable line 0x04 and the backlight line bit 3. -/
def Obligations.WritesCarryBacklight : Prop :=
  (∀ (c : Cfg) (w : Shadow) (i : Instr) (x : WriteArg), .write x ∈ program c i →
    lineHigh (x.byte c w) (blMask c) = false ∧
    (x.byte c w = 0x00 ∨ ∃ (n : Nibble) (m e : Byte), x.byte c w = dataBits c n ||| m ||| e ∧
      (m = 0x00 ∨ m = rsMask c) ∧ (e = 0x00 ∨ e = enMask c)) ∧
    (c.lines = exp8Lines → (x.byte c w).getLsbD 3 = false ∧
      (x.byte c w = 0x00 ∨ ∃ (n : Nibble) (m e : Byte), x.byte c w = (n ++ (0 : Nibble)) ||| m ||| e ∧
        (m = 0x00 ∨ m = 0x01) ∧ (e = 0x00 ∨ e = 0x04)))) ∧
  ∀ (i : Instr) (s : State) (m : Micro), m ∈ program s.cfg i →
    ∃ ev, (s.micro m).state.trace = s.trace ++ ev ∧
      ∀ e ∈ ev, ∀ a b, e = .wr a b →
        lineHigh b (blMask s.cfg) = s.w.backlightOn ∧ lineHigh b (rwMask s.cfg) = false ∧
        (s.cfg.lines = exp8Lines → b.getLsbD 3 = s.w.backlightOn ∧ b.getLsbD 1 = false)

/-- Also of whole requests: in a request that does not change the backlight flag, every byte written
carries it, "including writes unrelated to backlight" (R141). -/
def Obligations.RequestWritesCarryBacklight : Prop :=
  ∀ (i : Instr) (s t : State), i.isRequest = true → i ≠ .init → i ≠ .backlightOn → i ≠ .backlightOff →
    s.busy = false → exec i s = .next t →
    ∃ ev, t.trace = s.trace ++ ev ∧ ∀ a b, .wr a b ∈ ev →
      lineHigh b (blMask s.cfg) = s.sh.backlightOn ∧ (s.cfg.lines = exp8Lines → b.getLsbD 3 = s.sh.backlightOn)

/-- Every write that raises the enable line is followed, in the same list, by the settle, the write of the
same nibble and mode with the line low, and another settle (R142, R281). -/
def Obligations.EnableStrobeShape : Prop :=
  ∀ (c : Cfg) (i : Instr) (n : Nat) (v : Value) (h : Half) (m : Mode),
    (program c i)[n]? = some (.write (.nibble v h m true)) →
    (program c i)[n + 1]? = some (.sleep .edge) ∧
    (program c i)[n + 2]? = some (.write (.nibble v h m false)) ∧
    ((program c i)[n + 3]? = some (.sleep .edge) ∨ (program c i)[n + 3]? = some (.sleepReady .edge))

/-- Every command byte a well-formed request sends to a receiver in step is one of the controller's
commands, with every don't-care bit 0 (R112, R116). -/
def Obligations.OnlyKnownCommandsSent : Prop :=
  ∀ (i : Instr) (s : State), i.isRequest = true → i.WellFormed → s.busy = false →
    s.rx = .hi → s.busOk 36 → ∃ t new, exec i s = .next t ∧ t.xfers = s.xfers ++ new ∧
      ∀ x ∈ new, x.rs = .command → ∃ j, decode (.transport (.command x.byte)) = .ok j ∧ commandByte j = x.byte

/-! ## The Transport Multiplexer and the observer -/

/-- The EXP8 layout (R100 to R103) and the nibble bytes of R145, as the literals the rules write: what the
line parameters of R11 come to at the values R11 gives them, which State.reset has. -/
def Obligations.Exp8Literals : Prop :=
  State.reset.cfg.lines = exp8Lines ∧
  ∀ c : Cfg, c.lines = exp8Lines →
    blMask c = 0x08 ∧ enMask c = 0x04 ∧ rwMask c = 0x02 ∧ rsMask c = 0x01 ∧
    (∀ n : Nibble, dataBits c n = n ++ (0 : Nibble)) ∧
    (∀ on : Bool, backlightBit c on = (if on then 0x08 else 0x00)) ∧
    (∀ (v : Byte) (m : Mode),
      highNibbleByte c v m = ((v &&& 0xF0) ||| (if m = .data then 0x01 else 0x00)) ∧
      lowNibbleByte c v m = (((v <<< 4) &&& 0xF0) ||| (if m = .data then 0x01 else 0x00))) ∧
    (∀ b : Byte, nibbleOfByte c b = b.extractLsb' 4 4 ∧
      modeOfByte c b = (if b.getLsbD 0 then .data else .command) ∧
      lineHigh b (enMask c) = b.getLsbD 2 ∧ lineHigh b (rwMask c) = b.getLsbD 1 ∧
      lineHigh b (blMask c) = b.getLsbD 3)

/-- `ExpanderWrite(x)` (R140, R66): the byte written is `x` with the backlight flag ORed into the backlight
line (bit 3 on the lines of R100), it is one `Wr` event at ADDR, and the expander's latch becomes it when the
bus answers ok. -/
def Obligations.ExpanderWriteOk : Prop :=
  ∀ (s : State) (x : Byte), s.busOk 1 → ∃ t,
    s.expanderWrite x = .going t ∧
    t.latch = x ||| (if s.w.backlightOn then blMask s.cfg else 0x00) ∧
    t.trace = s.trace ++ [.wr s.cfg.addr (x ||| (if s.w.backlightOn then blMask s.cfg else 0x00))] ∧
    (s.cfg.lines = exp8Lines → t.latch = x ||| (if s.w.backlightOn then 0x08 else 0x00))

/-- A completed write puts its byte in the latch; a failed one leaves the old value or the byte written, by
the bus's draw, and no other value (R66). -/
def Obligations.WriteSettlesLatch : Prop :=
  ∀ (s : State) (b : Byte),
    (s.answerAt 0 = .ok → ∃ t, s.memWrite b = .going t ∧ t.latch = b) ∧
    (s.answerAt 0 ≠ .ok → ∃ t, s.memWrite b = .aborted t ∧
      (s.answerAt 0 = .failOld → t.latch = s.latch) ∧ (s.answerAt 0 = .failLanded → t.latch = b))

/-- `WriteNibble` delivers exactly one nibble, whatever the latch held before (R142, R144): a receiver
ready for a high nibble holds it, one holding a high nibble of the same mode has a transfer. Nothing is
latched before the second write. -/
def Obligations.WriteNibbleDeliversOne : Prop :=
  ∀ (s : State) (v : Byte) (m : Mode), s.busOk 2 → ∃ t,
    s.runMicros (writeNibble (.lit v) .high m) = .going t ∧
    t.trace = s.trace ++ nibbleEvents s.cfg s.w.backlightOn (highNibbleByte s.cfg v m) ∧
    (s.rx = .hi → t.rx = .lo (v.extractLsb' 4 4) m ∧ t.xfers = s.xfers) ∧
    (∀ h, s.rx = .lo h m → t.rx = .hi ∧ t.xfers = s.xfers ++ [{ rs := m, byte := h ++ v.extractLsb' 4 4 }]) ∧
    (∀ h r, s.rx = .lo h r → r ≠ m → t.rx = .unknown ∧ t.xfers = s.xfers) ∧
    (s.rx = .unknown → t.rx = .unknown ∧ t.xfers = s.xfers) ∧
    ∃ u, s.runMicros ((writeNibble (.lit v) .high m).take 2) = .going u ∧ u.rx = s.rx ∧ u.xfers = s.xfers

/-- `SendByte(v, mode)` (R145, R146): eight micro-steps, four writes in the order high-enable, low-enable,
high-enable, low-enable, of `(v & 0xF0) | mode` then `((v << 4) & 0xF0) | mode` (on the lines of R100) with
the backlight bit; a receiver in step is delivered `(mode, v)` and is in step again. -/
def Obligations.SendByteDeliversByte : Prop :=
  ∀ (s : State) (v : Byte) (m : Mode), s.busOk 4 → ∃ t,
    s.runMicros (sendByte (.lit v) m) = .going t ∧ (sendByte (.lit v) m).length = 8 ∧
    t.trace = s.trace ++ transferEvents s.cfg s.w.backlightOn { rs := m, byte := v } ∧
    (s.cfg.lines = exp8Lines →
      let carried : Byte := (if m = .data then 0x01 else 0x00) ||| (if s.w.backlightOn then 0x08 else 0x00)
      let h : Byte := (v &&& 0xF0) ||| carried
      let l : Byte := ((v <<< 4) &&& 0xF0) ||| carried
      transferEvents s.cfg s.w.backlightOn { rs := m, byte := v } =
        [.wr s.cfg.addr (h ||| 0x04), .dly s.cfg.tEdge, .wr s.cfg.addr h, .dly s.cfg.tEdge,
         .wr s.cfg.addr (l ||| 0x04), .dly s.cfg.tEdge, .wr s.cfg.addr l, .dly s.cfg.tEdge]) ∧
    (s.rx = .hi → t.rx = .hi ∧ t.xfers = s.xfers ++ [{ rs := m, byte := v }])

/-- The observer, on the lines of R100 (R70): a byte with bit 1 set is a read cycle; a byte that
takes bit 2 from 1 to 0 latches bits 7:4 with bit 0 as the mode; any other byte leaves the receiver. It runs
on every write answered ok, and on a failed write that landed; after any failed write RX is UNKNOWN, and
XFERS keeps what it held and what the landed byte completed (R72). -/
def Obligations.ObserverLatchesNibble : Prop :=
  ∀ (s : State) (b : Byte), s.cfg.lines = exp8Lines →
    (s.land b).latch = b ∧
    (b.getLsbD 1 = true → (s.land b).rx = .unknown ∧ (s.land b).xfers = s.xfers) ∧
    (b.getLsbD 1 = false → s.latch.getLsbD 2 = true ∧ b.getLsbD 2 = false →
      let n : Nibble := b.extractLsb' 4 4
      let rs : Mode := if b.getLsbD 0 then .data else .command
      (s.rx = .unknown → (s.land b).rx = .unknown ∧ (s.land b).xfers = s.xfers) ∧
      (s.rx = .hi → (s.land b).rx = .lo n rs ∧ (s.land b).xfers = s.xfers) ∧
      (∀ h r0, s.rx = .lo h r0 → rs = r0 → (s.land b).rx = .hi ∧
        (s.land b).xfers = s.xfers ++ [{ rs := r0, byte := h ++ n }]) ∧
      (∀ h r0, s.rx = .lo h r0 → rs ≠ r0 → (s.land b).rx = .unknown ∧ (s.land b).xfers = s.xfers)) ∧
    (b.getLsbD 1 = false → ¬(s.latch.getLsbD 2 = true ∧ b.getLsbD 2 = false) →
      (s.land b).rx = s.rx ∧ (s.land b).xfers = s.xfers) ∧
    (s.answerAt 0 = .ok → ∃ t, s.memWrite b = .going t ∧ t.latch = b ∧ t.rx = (s.land b).rx ∧
      t.xfers = (s.land b).xfers) ∧
    (s.answerAt 0 = .failLanded → ∃ t, s.memWrite b = .aborted t ∧ t.rx = .unknown ∧
      t.xfers = (s.land b).xfers) ∧
    (s.answerAt 0 = .failOld → ∃ t, s.memWrite b = .aborted t ∧ t.rx = .unknown ∧ t.xfers = s.xfers)

/-! ## What each request does when no write fails

Each conclusion is the whole next state, so it is the request's frame as well. In it, what PC, the write
count, the working copy and the other fields of STATUS hold after the end of a request is the model's
reading (log 3, 10, 11, 28), and the fields bus and draws are the model's own (log 4). -/

/-- INIT (R167, R171, R175): 57 micro-steps, 25 writes; the shadow register, INIT_DONE, SYNCED, P, RX and
the four transfers it leaves, and its whole trace with its delays. -/
def Obligations.InitResult : Prop :=
  ∀ s : State, s.busy = false → s.busOk 25 →
    let c := s.cfg
    let bl := s.sh.backlightOn
    let fs : Byte := if 1 < c.rows.toNat then 0x28 else 0x20
    let cmd (v : Byte) : Transfer := { rs := .command, byte := v }
    let nib (n : Nibble) : List Event := nibbleEvents c bl (dataBits c n)
    exec .init s = .next { s with
      active := none, op := 0x01, pc := 57, k := 25
      sh := initShadow, w := initShadow
      initDone := true, synced := true, status := okStatus
      latch := blMask c, rx := .hi
      xfers := s.xfers ++ [cmd fs, cmd 0x0C, cmd 0x06, cmd 0x01]
      trace := s.trace ++
        [.dly c.tPower] ++ nib 0x3 ++ [.dly c.tInit1] ++ nib 0x3 ++
        [.dly c.tInit2] ++ nib 0x3 ++ [.dly c.tInit3] ++ nib 0x2 ++
        transferEvents c bl (cmd fs) ++ transferEvents c bl (cmd 0x0C) ++
        transferEvents c bl (cmd 0x06) ++ transferEvents c bl (cmd 0x01) ++ [.dly c.tSlow] ++
        [.wr c.addr (blMask c), .resp okStatus]
      bus := s.bus.drop 25, draws := s.draws + 25 }

/-- The least time a list of micro-steps takes: the sum of its delays. -/
def Sys2Proof.leastTime (c : Cfg) (l : List Micro) : Nat :=
  (l.map (fun m => match m with
    | .sleep d => d.micros c
    | .sleepReady d => d.micros c
    | .write _ => 0
    | .assign _ => 0)).sum

/-- The state INIT leaves when no write fails, for every configuration (R272). The 0x08 in P is the backlight
line alone, bit 3 on the lines of R100. -/
def Obligations.InitEndState : Prop :=
  ∀ s : State, s.busy = false → s.busOk 25 → ∃ t, exec .init s = .next t ∧
    t.sh = { displayOn := true, cursorOn := false, blinkOn := false, entryLeft := true, entryShift := false
             backlightOn := true } ∧
    t.sh.packed = 0x2C ∧ t.initDone = true ∧ t.synced = true ∧ t.busy = false ∧ t.status.code = .ok ∧
    t.latch = blMask s.cfg ∧ (s.cfg.lines = exp8Lines → t.latch = 0x08) ∧ t.rx = .hi ∧
    t.xfers = s.xfers ++
      [{ rs := .command, byte := if 1 < s.cfg.rows.toNat then 0x28 else 0x20 },
       { rs := .command, byte := 0x0C }, { rs := .command, byte := 0x06 }, { rs := .command, byte := 0x01 }]

/-- CLEAR and HOME (R180, R181): one command transfer, then T_SLOW; no shadow flag changes. -/
def Obligations.ClearHomeResult : Prop :=
  ∀ s : State, s.busy = false → s.busOk 4 →
    exec .clear s = .next (s.afterTransfer 0x02 9 s.sh { rs := .command, byte := 0x01 } [.dly s.cfg.tSlow]) ∧
    exec .home s = .next (s.afterTransfer 0x03 9 s.sh { rs := .command, byte := 0x02 } [.dly s.cfg.tSlow])

/-- SETCURSOR (R182 to R186): one command transfer of `0x80 | ((col + min(row, ROWS - 1) * 0x40) & 0x7F)`. -/
def Obligations.SetcursorResult : Prop :=
  ∀ (s : State) (col row : BitVec 8), s.busy = false → s.busOk 4 →
    let a := (col.toNat + min row.toNat (s.cfg.rows.toNat - 1) * 0x40) % 0x80
    exec (.setcursor col row) s = .next
      (s.afterTransfer 0x05 8 s.sh { rs := .command, byte := BitVec.ofNat 8 (0x80 + a) } [])

/-- SETCURSOR's command byte (R185, R186): the address `col + r * 0x40`, `r` the clamped row, on naturals
and reduced to 7 bits, with the command bit; the same byte as `0x80 | (col + r * 0x40)` modulo 256. -/
def Obligations.SetcursorCommandByte : Prop :=
  ∀ (s : State) (col row : BitVec 8), s.busy = false → s.busOk 4 → s.rx = .hi → s.cfg.rows ≠ 0 →
    let a := col.toNat + (if s.cfg.rows ≤ row then s.cfg.rows.toNat - 1 else row.toNat) * 0x40
    ∃ t b, exec (.setcursor col row) s = .next t ∧ t.xfers = s.xfers ++ [{ rs := .command, byte := b }] ∧
      b.toNat = 0x80 + a % 0x80 ∧ b.toNat = (0x80 ||| a) % 0x100

/-- The display-control bundle of a shadow register (R187): `0x08`, D in bit 2, C in bit 1, B in bit 0. -/
def Sys2Proof.displayControlOf (w : Shadow) : Byte :=
  BitVec.ofNat 8 (0x08 + (if w.displayOn then 4 else 0) + (if w.cursorOn then 2 else 0) +
    (if w.blinkOn then 1 else 0))

/-- The entry-mode bundle (R198): `0x04`, I in bit 1, S in bit 0. -/
def Sys2Proof.entryModeOf (w : Shadow) : Byte :=
  BitVec.ofNat 8 (0x04 + (if w.entryLeft then 2 else 0) + (if w.entryShift then 1 else 0))

/-- DISPLAY, CURSOR and BLINK, ON and OFF (R188 to R193): one flag assigned, the other bits re-sent from
the shadow register, one command transfer. -/
def Obligations.DisplayControlResult : Prop :=
  ∀ s : State, s.busy = false → s.busOk 4 →
    let sent (op : Byte) (sh' : Shadow) :=
      Host.Outcome.next (s.afterTransfer op 9 sh' { rs := .command, byte := displayControlOf sh' } [])
    exec .displayOn s = sent 0x06 { s.sh with displayOn := true } ∧
    exec .displayOff s = sent 0x07 { s.sh with displayOn := false } ∧
    exec .cursorOn s = sent 0x08 { s.sh with cursorOn := true } ∧
    exec .cursorOff s = sent 0x09 { s.sh with cursorOn := false } ∧
    exec .blinkOn s = sent 0x0A { s.sh with blinkOn := true } ∧
    exec .blinkOff s = sent 0x0B { s.sh with blinkOn := false }

/-- BACKLIGHT_ON and BACKLIGHT_OFF (R194, R195): one flag assigned and one write of the backlight bit
alone; no transfer, the receiver untouched. The premise on the latch is the invariant's: a receiver that
is not UNKNOWN has its enable line low between requests. -/
def Obligations.BacklightResult : Prop :=
  ∀ s : State, s.busy = false → s.busOk 1 →
    (s.rx ≠ .unknown → lineHigh s.latch (enMask s.cfg) = false) →
    exec .backlightOn s = .next (s.afterRequest 0x0C 2 1 { s.sh with backlightOn := true } (blMask s.cfg)
      [.wr s.cfg.addr (blMask s.cfg)] []) ∧
    exec .backlightOff s = .next (s.afterRequest 0x0D 2 1 { s.sh with backlightOn := false } 0x00
      [.wr s.cfg.addr 0x00] [])

/-- SCROLL_LEFT and SCROLL_RIGHT (R196, R197): one command transfer; no shadow flag changes. -/
def Obligations.ScrollResult : Prop :=
  ∀ s : State, s.busy = false → s.busOk 4 →
    exec .scrollLeft s = .next (s.afterTransfer 0x0F 8 s.sh { rs := .command, byte := 0x18 } []) ∧
    exec .scrollRight s = .next (s.afterTransfer 0x10 8 s.sh { rs := .command, byte := 0x1C } [])

/-- LEFT_TO_RIGHT, RIGHT_TO_LEFT, SHIFT_INC, SHIFT_DEC (R198 to R201). -/
def Obligations.EntryModeResult : Prop :=
  ∀ s : State, s.busy = false → s.busOk 4 →
    let sent (op : Byte) (sh' : Shadow) :=
      Host.Outcome.next (s.afterTransfer op 9 sh' { rs := .command, byte := entryModeOf sh' } [])
    exec .leftToRight s = sent 0x11 { s.sh with entryLeft := true } ∧
    exec .rightToLeft s = sent 0x12 { s.sh with entryLeft := false } ∧
    exec .shiftInc s = sent 0x13 { s.sh with entryShift := true } ∧
    exec .shiftDec s = sent 0x14 { s.sh with entryShift := false }

/-- PUTC (R220, R222): one data transfer of the low byte of the code point, for every code point. -/
def Obligations.PutcResult : Prop :=
  ∀ (s : State) (cp : BitVec 24), s.busy = false → s.busOk 4 →
    exec (.putc cp) s = .next
      (s.afterTransfer 0x04 8 s.sh { rs := .data, byte := BitVec.ofNat 8 (cp.toNat % 256) } [])

/-- The character byte is the low byte of the code point, for every code point (R222). -/
def Obligations.CharacterByteTruncated : Prop :=
  ∀ (s : State) (cp : BitVec 24), s.busy = false → s.busOk 4 → s.rx = .hi →
    ∃ t, exec (.putc cp) s = .next t ∧
      t.xfers = s.xfers ++ [{ rs := .data, byte := cp.extractLsb' 0 8 }]

/-- CGDEF's transfers and costs (R226, R227): one command transfer, then exactly the eight rows as DATA, as
given; 72 micro-steps, 36 writes, at least `36 * T_EDGE`. -/
def Obligations.GlyphRowsSentUnmodified : Prop :=
  ∀ (s : State) (slot : BitVec 8) (glyph : List Byte), glyph.length = 8 → s.busy = false → s.busOk 36 →
    s.rx = .hi →
    (∃ t b, exec (.cgdef slot glyph) s = .next t ∧ t.xfers = s.xfers ++ { rs := .command, byte := b } ::
      glyph.map (fun r => { rs := .data, byte := r })) ∧
    (program s.cfg (.cgdef slot glyph)).length = 72 ∧ writeCount (program s.cfg (.cgdef slot glyph)) = 36 ∧
    leastTime s.cfg (program s.cfg (.cgdef slot glyph)) = 36 * s.cfg.tEdge

/-- CGDEF (R225 to R227): the CGRAM address command of the slot's low three bits, then the eight rows as
data transfers, unmodified; 72 micro-steps, 36 writes. -/
def Obligations.CgdefResult : Prop :=
  ∀ (s : State) (slot : BitVec 8) (glyph : List Byte), glyph.length = 8 → s.busy = false → s.busOk 36 →
    let ts : List Transfer := { rs := .command, byte := BitVec.ofNat 8 (0x40 + slot.toNat % 8 * 8) } ::
      glyph.map (fun r => { rs := .data, byte := r })
    exec (.cgdef slot glyph) s = .next (s.afterRequest 0x0E 72 36 s.sh
      (lowNibbleByte s.cfg (glyph.getD 7 0) .data ||| backlightBit s.cfg s.sh.backlightOn)
      (ts.flatMap (transferEvents s.cfg s.sh.backlightOn)) ts)

/-- CGDEF with a slot above 7 behaves as with its low three bits, whatever the bus answers (R228). -/
def Obligations.CgdefSlotMasked : Prop :=
  ∀ (s : State) (slot : BitVec 8) (glyph : List Byte), s.busy = false →
    exec (.cgdef slot glyph) s = exec (.cgdef (slot &&& 0x07) glyph) s

/-- SETCURSOR with a row past the last behaves as with the last row, whatever the bus answers (R183). -/
def Obligations.SetcursorRowClamped : Prop :=
  ∀ (s : State) (col row : BitVec 8), s.busy = false → s.cfg.rows ≠ 0 → s.cfg.rows ≤ row →
    exec (.setcursor col row) s = exec (.setcursor col (s.cfg.rows - 1)) s

/-- The regression property of the bundled register (R202): DISPLAY_ON, then CURSOR_ON, then BLINK_OFF
ends with the command 0x0E. -/
def Obligations.DisplayCursorBlinkRoundTrip : Prop :=
  ∀ s : State, s.busy = false → s.busOk 12 → s.rx = .hi → ∃ a b c x y,
    exec .displayOn s = .next a ∧ exec .cursorOn a = .next b ∧ exec .blinkOff b = .next c ∧
    c.xfers = s.xfers ++ [x, y, { rs := .command, byte := 0x0E }]

/-- `print`: the PUTCs of a text at the port of a synchronised block are performed in text order, one step
each, and the receiver is delivered the low byte of every code point (R110, R221, R222). That the port is a
list and one step performs one PUTC is the model's choice (log 18, log 1). -/
def Obligations.PrintDeliversText : Prop :=
  ∀ (text : List (BitVec 24)) (s : State), s.busy = false → s.xport = none → s.rx = .hi →
    s.busOk (4 * text.length) → s.port = text.map (fun cp => cp ++ (0x04 : Byte)) →
    ∃ t, core.run text.length s = .next t ∧ t.port = [] ∧ t.rx = .hi ∧
      t.xfers = s.xfers ++ text.map (fun cp => { rs := .data, byte := cp.extractLsb' 0 8 })

/-- The eight command bytes, each sent by itself: one transfer of the byte of R112 with its don't-care bits
0. That a row of the table is performed so outside a request is the model's choice (log 12). -/
def Obligations.CommandByteResult : Prop :=
  ∀ s : State, s.busOk 4 →
    exec .cmdClearDisplay s = .next (s.afterCommand 0x01) ∧
    exec .cmdReturnHome s = .next (s.afterCommand 0x02) ∧
    (∀ i b : Bool, exec (.cmdEntryModeSet i b) s = .next (s.afterCommand
      (1#6 ++ BitVec.ofBool i ++ BitVec.ofBool b))) ∧
    (∀ d c b : Bool, exec (.cmdDisplayControl d c b) s = .next (s.afterCommand
      (1#5 ++ BitVec.ofBool d ++ BitVec.ofBool c ++ BitVec.ofBool b))) ∧
    (∀ m r : Bool, exec (.cmdCursorDisplayShift m r) s = .next (s.afterCommand
      (1#4 ++ BitVec.ofBool m ++ BitVec.ofBool r ++ 0#2))) ∧
    (∀ l n f : Bool, exec (.cmdFunctionSet l n f) s = .next (s.afterCommand
      (1#3 ++ BitVec.ofBool l ++ BitVec.ofBool n ++ BitVec.ofBool f ++ 0#2))) ∧
    (∀ a : BitVec 6, exec (.cmdSetCgramAddress a) s = .next (s.afterCommand (1#2 ++ a))) ∧
    (∀ a : BitVec 7, exec (.cmdSetDdramAddress a) s = .next (s.afterCommand (1#1 ++ a)))

/-- The two initialization nibbles, each sent by itself (log 12, 14): one latched nibble in COMMAND mode. -/
def Obligations.InitNibbleResult : Prop :=
  ∀ s : State, s.busOk 2 →
    exec .nibInit8bit s = .next (s.afterNibble 0x3) ∧
    exec .nibInit4bit s = .next (s.afterNibble 0x2)

/-! ## Failure, use before INIT, commit policy -/

/-- The last byte written among some events, `p` if none was. -/
def Sys2Proof.lastWritten (p : Byte) (ev : List Event) : Byte :=
  ev.foldl (fun p e => match e with
    | .wr _ b => b
    | .dly _ => p
    | .resp _ => p) p

/-- The flags a list of micro-steps assigns, in order. -/
def Sys2Proof.assignments (l : List Micro) : List (Sys2Proof.Machine.Field × Bool) :=
  l.flatMap (fun m => match m with
    | .assign a => a
    | .write _ => []
    | .sleep _ => []
    | .sleepReady _ => [])

/-- TransportFailure (R244, R246): if the bus answers ok to the first `j` writes of a request and fails the
next, micro-step `n`, the request ends there: its trace is a prefix of the trace it has when no write
fails, up to the failing `Wr`, then the response; STATUS records the opcode, `j` and the byte; SYNCED is
0, RX is UNKNOWN, BUSY is 0; INIT_DONE is 0 for INIT and unchanged for any other request; the latch holds
the byte if it landed and otherwise the last byte written before; under CONFIRMED the shadow register is
as it was, under OPTIMISTIC it has every assignment made before micro-step `n`. XFERS (R72) is what it was in
`v`, the state the micro-steps before the failing one leave, and if the byte landed also the transfer its
landing completes; it is a prefix of the failure-free XFERS. F_BEFORE_INIT is the mark of R243: INIT leaves it,
any other request sets it when INIT_DONE was 0. -/
def Obligations.FailureEndsRequest : Prop :=
  ∀ (i : Instr) (s : State) (j : Nat), i.isRequest = true → s.busy = false →
    j < writeCount (program s.cfg i) → s.busOk j → s.answerAt j ≠ .ok →
    ∃ t u v ev b n x,
      exec i s = .next t ∧
      exec i { s with bus := List.replicate (writeCount (program s.cfg i)) .ok } = .next u ∧
      (program s.cfg i)[n]? = some (.write x) ∧ writeCount ((program s.cfg i).take n) = j ∧
      (s.accept i).runMicros ((program s.cfg i).take n) = .going v ∧
      t.trace = s.trace ++ ev ++ [.wr s.cfg.addr b, .resp t.status] ∧
      (s.trace ++ ev ++ [.wr s.cfg.addr b]) <+: u.trace ∧
      ev.countP Event.isWr = j ∧
      t.status = { code := .transportFailure, op := requestOpcode i, k := BitVec.ofNat 6 j, byte := b } ∧
      t.synced = false ∧ t.rx = .unknown ∧ t.active = none ∧
      t.initDone = (if i = .init then false else s.initDone) ∧
      (s.answerAt j = .failLanded → t.latch = b) ∧
      (s.answerAt j = .failOld → t.latch = lastWritten s.latch ev) ∧
      (s.answerAt j = .failLanded → t.xfers = (v.land b).xfers) ∧
      (s.answerAt j = .failOld → t.xfers = v.xfers) ∧ t.xfers <+: u.xfers ∧
      (i = .init → t.fBeforeInit = s.fBeforeInit) ∧
      (i ≠ .init → t.fBeforeInit = (s.fBeforeInit || !s.initDone)) ∧
      (s.cfg.policy = .confirmed → t.sh = s.sh) ∧
      (s.cfg.policy = .optimistic → t.sh = s.sh.assign (assignments ((program s.cfg i).take n)))

/-- Use before INIT (R243): a request other than INIT, accepted while INIT_DONE is 0, sets F_BEFORE_INIT and
is performed exactly as with INIT_DONE 1. -/
def Obligations.UseBeforeInitMarked : Prop :=
  ∀ (i : Instr) (s : State), i.isRequest = true → i ≠ .init → s.busy = false → s.initDone = false →
    ∃ t u, exec i s = .next t ∧ exec i { s with initDone := true } = .next u ∧
      t.fBeforeInit = true ∧ t = { u with fBeforeInit := true, initDone := false }

/-- The one flag a flag request assigns, and its value (R23). -/
def Sys2Proof.flagAssigned : Instr → Option (Sys2Proof.Machine.Field × Bool)
  | .displayOn => some (.displayOn, true)
  | .displayOff => some (.displayOn, false)
  | .cursorOn => some (.cursorOn, true)
  | .cursorOff => some (.cursorOn, false)
  | .blinkOn => some (.blinkOn, true)
  | .blinkOff => some (.blinkOn, false)
  | .backlightOn => some (.backlightOn, true)
  | .backlightOff => some (.backlightOn, false)
  | .leftToRight => some (.entryLeft, true)
  | .rightToLeft => some (.entryLeft, false)
  | .shiftInc => some (.entryShift, true)
  | .shiftDec => some (.entryShift, false)
  | _ => none

/-- When one of the twelve flag requests fails at any of its writes (R244, R31): under OPTIMISTIC the shadow
register keeps the flag's new value, under CONFIRMED it keeps the value from acceptance. -/
def Obligations.CommitPolicyOnFailure : Prop :=
  ∀ (i : Instr) (f : Sys2Proof.Machine.Field) (v : Bool) (s t : State), flagAssigned i = some (f, v) → s.busy = false →
    ¬ s.busOk (writeCount (program s.cfg i)) → exec i s = .next t →
    (s.cfg.policy = .optimistic → t.sh = s.sh.set f v) ∧ (s.cfg.policy = .confirmed → t.sh = s.sh)

/-- INIT that fails at a write (R172): INIT_DONE and SYNCED are 0; under OPTIMISTIC the flags assigned
before the failing write stay assigned, under CONFIRMED all are as they were. -/
def Obligations.InitFailure : Prop :=
  ∀ (s : State) (j : Nat), s.busy = false → j < 25 → s.busOk j → s.answerAt j ≠ .ok →
    ∃ t, exec .init s = .next t ∧ t.active = none ∧
      t.status.code = .transportFailure ∧ t.status.k = BitVec.ofNat 6 j ∧ t.initDone = false ∧ t.synced = false ∧ t.rx = .unknown ∧
      t.sh = (match s.cfg.policy with
        | .confirmed => s.sh
        | .optimistic =>
          if j < 12 then s.sh
          else if j < 16 then { s.sh with displayOn := true, cursorOn := false, blinkOn := false }
          else if j < 24 then { initShadow with backlightOn := s.sh.backlightOn }
          else initShadow)

/-! ## Configuration and tables -/

/-- Construction (R40, R42, R247): the values of R42's table for every argument with ROWS >= 1, P as drawn;
with ROWS = 0 nothing but REFUSED changes. -/
def Obligations.ConstructionResult : Prop :=
  (∀ (c : Cfg) (p : Byte) (s : State), c.rows ≠ 0 →
    let t := construct c p s
    t.cfg = c ∧ t.sh.backlightOn = c.blReset ∧ t.sh.displayOn = false ∧ t.sh.cursorOn = false ∧
    t.sh.blinkOn = false ∧ t.sh.entryLeft = false ∧ t.sh.entryShift = false ∧ t.w = t.sh ∧ t.busy = false ∧ t.op = 0 ∧ t.pc = 0 ∧
    t.status = { code := .ok, op := 0, k := 0, byte := 0 } ∧ t.initDone = false ∧ t.synced = false ∧
    t.fBeforeInit = false ∧ t.refused = false ∧ t.latch = p ∧ t.rx = .unknown ∧ t.xfers = [] ∧ t.trace = []) ∧
  (∀ (c : Cfg) (p : Byte) (s : State), c.rows = 0 → construct c p s = { s with refused := true })

/-- The block's reset is construction (R270): idle, at PC 0, STATUS OK, nothing marked, sent or received. -/
def Obligations.ResetIsConstruction : Prop :=
  (∀ s : State, State.reset = construct State.reset.cfg State.reset.latch s) ∧
  State.reset.busy = false ∧ State.reset.pc = 0 ∧ State.reset.status = okStatus ∧
  State.reset.defined = true ∧ State.reset.initDone = false ∧ State.reset.synced = false ∧
  State.reset.rx = .unknown ∧ State.reset.xfers = [] ∧ State.reset.trace = [] ∧ State.reset.port = []

/-- R291's table: micro-steps, writes and, with the delays of R280 (in microseconds), the minimum duration
of every well-formed request. -/
def Obligations.RequestCosts : Prop :=
  ∀ (c : Cfg) (i : Instr), i.WellFormed → i.isRequest = true →
    c.tEdge = 1000 → c.tPower = 50000 → c.tInit1 = 5000 → c.tInit2 = 5000 → c.tInit3 = 1000 →
    c.tSlow = 2000 →
    ((program c i).length, writeCount (program c i), leastTime c (program c i)) =
      (match i with
        | .init => (57, 25, 87000)
        | .clear => (9, 4, 6000)
        | .home => (9, 4, 6000)
        | .setcursor _ _ => (8, 4, 4000)
        | .scrollLeft => (8, 4, 4000)
        | .scrollRight => (8, 4, 4000)
        | .putc _ => (8, 4, 4000)
        | .backlightOn => (2, 1, 0)
        | .backlightOff => (2, 1, 0)
        | .cgdef _ _ => (72, 36, 36000)
        | _ => (9, 4, 4000))

/-- The packed view SH of the shadow register (R26), bit by bit. -/
def Obligations.PackedShadowBits : Prop :=
  ∀ w : Shadow,
    w.packed.getLsbD 0 = w.blinkOn ∧ w.packed.getLsbD 1 = w.cursorOn ∧ w.packed.getLsbD 2 = w.displayOn ∧
    w.packed.getLsbD 3 = w.backlightOn ∧ w.packed.getLsbD 4 = w.entryShift ∧
    w.packed.getLsbD 5 = w.entryLeft ∧ w.packed.getLsbD 6 = false ∧ w.packed.getLsbD 7 = false
end

