-- ==== Sys2Proof/Laws/Decode.lean ====
section
/-! SUPPORT. Fields of concatenated words, and what decoding a request does, format by format
(30_encoding.md R104 to R109). -/

namespace Sys2Proof

/-! ## Fields of concatenated words -/

/-- The low part of a concatenation. -/
theorem extract_append_low {a b : Nat} (x : BitVec a) (y : BitVec b) : (x ++ y).extractLsb' 0 b = y := by
  apply BitVec.eq_of_getLsbD_eq
  intro i hi
  rw [BitVec.getLsbD_extractLsb', BitVec.getLsbD_append]
  simp [hi]

/-- A field above the low part. -/
theorem extract_append_high {a b : Nat} (x : BitVec a) (y : BitVec b) (s w : Nat) :
    (x ++ y).extractLsb' (b + s) w = x.extractLsb' s w := by
  apply BitVec.eq_of_getLsbD_eq
  intro i hi
  rw [BitVec.getLsbD_extractLsb', BitVec.getLsbD_append, BitVec.getLsbD_extractLsb', if_neg (by omega)]
  congr 2
  omega

/-- The whole word is a field. -/
theorem extract_all {a : Nat} (x : BitVec a) : x.extractLsb' 0 a = x := by
  apply BitVec.eq_of_getLsbD_eq
  intro i hi
  simp [hi]

/-- Two neighbouring fields are one. -/
theorem extract_glue {n a b : Nat} (x : BitVec n) (s : Nat) :
    x.extractLsb' (s + b) a ++ x.extractLsb' s b = x.extractLsb' s (a + b) := by
  apply BitVec.eq_of_getLsbD_eq
  intro i hi
  rw [BitVec.getLsbD_append]
  simp only [BitVec.getLsbD_extractLsb', hi]
  split
  · simp_all
  · rw [show s + b + (i - b) = s + i by omega]
    simp
    omega

/-- Four rows packed into a payload word are read back (R107, R225). -/
theorem payloadRows_append (a b c d : Byte) : payloadRows (d ++ c ++ b ++ a) = [a, b, c, d] := by
  simp only [payloadRows, payloadRow]
  rw [show 8 * 0 = 0 from rfl, show 8 * 1 = 8 + 0 from rfl, show 8 * 2 = 8 + (8 + 0) from rfl,
    show 8 * 3 = 8 + (8 + (8 + 0)) from rfl]
  simp only [extract_append_low, extract_append_high, extract_all]

/-- A payload word is its four rows. -/
theorem payloadRow_append (g : Word) :
    payloadRow g 3 ++ payloadRow g 2 ++ payloadRow g 1 ++ payloadRow g 0 = g := by
  have h1 := extract_glue (a := 8) (b := 8) g 16
  have h2 := extract_glue (a := 16) (b := 8) g 8
  have h3 := extract_glue (a := 24) (b := 8) g 0
  exact (congrArg (fun x => x ++ g.extractLsb' 8 8 ++ g.extractLsb' 0 8) h1).trans
    ((congrArg (fun x => x ++ g.extractLsb' 0 8) h2).trans (h3.trans (extract_all g)))

/-- A request word is its operand bits and its opcode (R104). -/
theorem request_word (q : Word) : q.extractLsb' 8 24 ++ opcodeOf q = q :=
  (extract_glue (a := 24) (b := 8) q 0).trans (extract_all q)

/-- The same with the bits 31:16 and the operand in 15:8. -/
theorem request_word_slot (q : Word) : q.extractLsb' 16 16 ++ q.extractLsb' 8 8 ++ opcodeOf q = q :=
  (congrArg (fun x => x ++ q.extractLsb' 0 8) (extract_glue (a := 16) (b := 8) q 8)).trans (request_word q)

/-- The same with the four bytes. -/
theorem request_word_bytes (q : Word) :
    q.extractLsb' 24 8 ++ q.extractLsb' 16 8 ++ q.extractLsb' 8 8 ++ opcodeOf q = q :=
  (congrArg (fun x => x ++ q.extractLsb' 8 8 ++ q.extractLsb' 0 8) (extract_glue (a := 8) (b := 8) q 16)).trans
    (request_word_slot q)

/-! ## Decoding a request, format by format -/

/-- A CGDEF with its two payload words (R107). -/
theorem decodeRequest_cgdef {q g0 g1 : Word} (h : opcodeOf q = 0x0E) :
    decodeRequest q [g0, g1] = if q.extractLsb' 16 16 = 0 then
      .ok (.cgdef (q.extractLsb' 8 8) (payloadRows g0 ++ payloadRows g1)) else .error .mustBeZero := by
  simp only [decodeRequest, cgdefOpcode, h, if_true]

/-- A PUTC (R105): every word of opcode 0x04 is one. -/
theorem decodeRequest_putc {q : Word} (h : opcodeOf q = 0x04) :
    decodeRequest q [] = .ok (.putc (q.extractLsb' 8 24)) := by
  simp [decodeRequest, cgdefOpcode, h]

/-- A SETCURSOR (R105). -/
theorem decodeRequest_setcursor {q : Word} (h : opcodeOf q = 0x05) :
    decodeRequest q [] = if q.extractLsb' 24 8 = 0 then
      .ok (.setcursor (q.extractLsb' 8 8) (q.extractLsb' 16 8)) else .error .mustBeZero := by
  simp [decodeRequest, cgdefOpcode, h]

/-- Any other word (R106). -/
theorem decodeRequest_r0 {q : Word} (h1 : opcodeOf q ≠ 0x0E) (h2 : opcodeOf q ≠ 0x04)
    (h3 : opcodeOf q ≠ 0x05) : decodeRequest q [] = decodeR0 q := by
  rw [decodeRequest, cgdefOpcode, if_neg h1, if_neg (by simp), if_neg h2, if_neg h3]
  simp

/-- What the table of the operand-free requests holds. -/
theorem r0Table_spec {b : Byte} {i : Instr} (h : r0Table.lookup b = some i) :
    requestOpcode i = b ∧ i.isRequest = true ∧ i.WellFormed ∧
      encode i = .request ((0 : BitVec 24) ++ b) [] := by
  have key : ∀ b : Byte, ∀ i, r0Table.lookup b = some i → requestOpcode i = b ∧ i.isRequest = true ∧
      i.WellFormed ∧ encode i = .request ((0 : BitVec 24) ++ b) [] := by
    have : ∀ b : Byte, (match r0Table.lookup b with
        | none => true
        | some i => decide (requestOpcode i = b ∧ i.isRequest = true ∧ i.WellFormed ∧
            encode i = .request ((0 : BitVec 24) ++ b) [])) = true := by decide
    intro b i h
    have hb := this b
    rw [h] at hb
    exact of_decide_eq_true hb
  exact key b i h

/-- A request that decodes has as many payload words as its opcode says (R109). -/
theorem decodeRequest_length {q : Word} {payload : List Word} {i : Instr}
    (h : decodeRequest q payload = .ok i) : payload.length = payloadLength q := by
  unfold payloadLength
  simp only [decodeRequest] at h
  split at h
  · rename_i ho
    rw [if_pos ho]
    split at h
    · rfl
    · cases h
  · rename_i ho
    rw [if_neg ho]
    split at h
    · cases h
    · rename_i hp
      simpa using hp

end Sys2Proof
end

