-- ==== Sys2Proof/Laws/State.lean ====
section
/-! SUPPORT. One lemma per field per named update of State: what each update writes, and that it leaves
every other field alone. -/

namespace Sys2Proof.Machine

/-! ## emit -/

section
variable (s : State) (e : Event)

@[simp] theorem State.emit_cfg : (s.emit e).cfg = s.cfg := rfl
@[simp] theorem State.emit_sh : (s.emit e).sh = s.sh := rfl
@[simp] theorem State.emit_w : (s.emit e).w = s.w := rfl
@[simp] theorem State.emit_active : (s.emit e).active = s.active := rfl
@[simp] theorem State.emit_op : (s.emit e).op = s.op := rfl
@[simp] theorem State.emit_pc : (s.emit e).pc = s.pc := rfl
@[simp] theorem State.emit_k : (s.emit e).k = s.k := rfl
@[simp] theorem State.emit_status : (s.emit e).status = s.status := rfl
@[simp] theorem State.emit_initDone : (s.emit e).initDone = s.initDone := rfl
@[simp] theorem State.emit_synced : (s.emit e).synced = s.synced := rfl
@[simp] theorem State.emit_fBeforeInit : (s.emit e).fBeforeInit = s.fBeforeInit := rfl
@[simp] theorem State.emit_refused : (s.emit e).refused = s.refused := rfl
@[simp] theorem State.emit_latch : (s.emit e).latch = s.latch := rfl
@[simp] theorem State.emit_rx : (s.emit e).rx = s.rx := rfl
@[simp] theorem State.emit_xfers : (s.emit e).xfers = s.xfers := rfl
@[simp] theorem State.emit_trace : (s.emit e).trace = s.trace ++ [e] := rfl
@[simp] theorem State.emit_port : (s.emit e).port = s.port := rfl
@[simp] theorem State.emit_xport : (s.emit e).xport = s.xport := rfl
@[simp] theorem State.emit_bus : (s.emit e).bus = s.bus := rfl
@[simp] theorem State.emit_draws : (s.emit e).draws = s.draws := rfl

end

/-! ## takeAnswer -/

section
variable (s : State)

@[simp] theorem State.takeAnswer_cfg : (s.takeAnswer).cfg = s.cfg := rfl
@[simp] theorem State.takeAnswer_sh : (s.takeAnswer).sh = s.sh := rfl
@[simp] theorem State.takeAnswer_w : (s.takeAnswer).w = s.w := rfl
@[simp] theorem State.takeAnswer_active : (s.takeAnswer).active = s.active := rfl
@[simp] theorem State.takeAnswer_op : (s.takeAnswer).op = s.op := rfl
@[simp] theorem State.takeAnswer_pc : (s.takeAnswer).pc = s.pc := rfl
@[simp] theorem State.takeAnswer_k : (s.takeAnswer).k = s.k := rfl
@[simp] theorem State.takeAnswer_status : (s.takeAnswer).status = s.status := rfl
@[simp] theorem State.takeAnswer_initDone : (s.takeAnswer).initDone = s.initDone := rfl
@[simp] theorem State.takeAnswer_synced : (s.takeAnswer).synced = s.synced := rfl
@[simp] theorem State.takeAnswer_fBeforeInit : (s.takeAnswer).fBeforeInit = s.fBeforeInit := rfl
@[simp] theorem State.takeAnswer_refused : (s.takeAnswer).refused = s.refused := rfl
@[simp] theorem State.takeAnswer_latch : (s.takeAnswer).latch = s.latch := rfl
@[simp] theorem State.takeAnswer_rx : (s.takeAnswer).rx = s.rx := rfl
@[simp] theorem State.takeAnswer_xfers : (s.takeAnswer).xfers = s.xfers := rfl
@[simp] theorem State.takeAnswer_trace : (s.takeAnswer).trace = s.trace := rfl
@[simp] theorem State.takeAnswer_port : (s.takeAnswer).port = s.port := rfl
@[simp] theorem State.takeAnswer_xport : (s.takeAnswer).xport = s.xport := rfl
@[simp] theorem State.takeAnswer_bus : (s.takeAnswer).bus = s.bus.tail := rfl
@[simp] theorem State.takeAnswer_draws : (s.takeAnswer).draws = s.draws + 1 := rfl

end

/-! ## nextPc -/

section
variable (s : State)

@[simp] theorem State.nextPc_cfg : (s.nextPc).cfg = s.cfg := rfl
@[simp] theorem State.nextPc_sh : (s.nextPc).sh = s.sh := rfl
@[simp] theorem State.nextPc_w : (s.nextPc).w = s.w := rfl
@[simp] theorem State.nextPc_active : (s.nextPc).active = s.active := rfl
@[simp] theorem State.nextPc_op : (s.nextPc).op = s.op := rfl
@[simp] theorem State.nextPc_pc : (s.nextPc).pc = s.pc + 1 := rfl
@[simp] theorem State.nextPc_k : (s.nextPc).k = s.k := rfl
@[simp] theorem State.nextPc_status : (s.nextPc).status = s.status := rfl
@[simp] theorem State.nextPc_initDone : (s.nextPc).initDone = s.initDone := rfl
@[simp] theorem State.nextPc_synced : (s.nextPc).synced = s.synced := rfl
@[simp] theorem State.nextPc_fBeforeInit : (s.nextPc).fBeforeInit = s.fBeforeInit := rfl
@[simp] theorem State.nextPc_refused : (s.nextPc).refused = s.refused := rfl
@[simp] theorem State.nextPc_latch : (s.nextPc).latch = s.latch := rfl
@[simp] theorem State.nextPc_rx : (s.nextPc).rx = s.rx := rfl
@[simp] theorem State.nextPc_xfers : (s.nextPc).xfers = s.xfers := rfl
@[simp] theorem State.nextPc_trace : (s.nextPc).trace = s.trace := rfl
@[simp] theorem State.nextPc_port : (s.nextPc).port = s.port := rfl
@[simp] theorem State.nextPc_xport : (s.nextPc).xport = s.xport := rfl
@[simp] theorem State.nextPc_bus : (s.nextPc).bus = s.bus := rfl
@[simp] theorem State.nextPc_draws : (s.nextPc).draws = s.draws := rfl

end

/-! ## sleep -/

section
variable (s : State) (d : Delay)

@[simp] theorem State.sleep_cfg : (s.sleep d).cfg = s.cfg := rfl
@[simp] theorem State.sleep_sh : (s.sleep d).sh = s.sh := rfl
@[simp] theorem State.sleep_w : (s.sleep d).w = s.w := rfl
@[simp] theorem State.sleep_active : (s.sleep d).active = s.active := rfl
@[simp] theorem State.sleep_op : (s.sleep d).op = s.op := rfl
@[simp] theorem State.sleep_pc : (s.sleep d).pc = s.pc := rfl
@[simp] theorem State.sleep_k : (s.sleep d).k = s.k := rfl
@[simp] theorem State.sleep_status : (s.sleep d).status = s.status := rfl
@[simp] theorem State.sleep_initDone : (s.sleep d).initDone = s.initDone := rfl
@[simp] theorem State.sleep_synced : (s.sleep d).synced = s.synced := rfl
@[simp] theorem State.sleep_fBeforeInit : (s.sleep d).fBeforeInit = s.fBeforeInit := rfl
@[simp] theorem State.sleep_refused : (s.sleep d).refused = s.refused := rfl
@[simp] theorem State.sleep_latch : (s.sleep d).latch = s.latch := rfl
@[simp] theorem State.sleep_rx : (s.sleep d).rx = s.rx := rfl
@[simp] theorem State.sleep_xfers : (s.sleep d).xfers = s.xfers := rfl
@[simp] theorem State.sleep_trace : (s.sleep d).trace = s.trace ++ [.dly (d.micros s.cfg)] := rfl
@[simp] theorem State.sleep_port : (s.sleep d).port = s.port := rfl
@[simp] theorem State.sleep_xport : (s.sleep d).xport = s.xport := rfl
@[simp] theorem State.sleep_bus : (s.sleep d).bus = s.bus := rfl
@[simp] theorem State.sleep_draws : (s.sleep d).draws = s.draws := rfl

end

/-! ## refuse -/

section
variable (s : State)

@[simp] theorem State.refuse_cfg : (s.refuse).cfg = s.cfg := rfl
@[simp] theorem State.refuse_sh : (s.refuse).sh = s.sh := rfl
@[simp] theorem State.refuse_w : (s.refuse).w = s.w := rfl
@[simp] theorem State.refuse_active : (s.refuse).active = s.active := rfl
@[simp] theorem State.refuse_op : (s.refuse).op = s.op := rfl
@[simp] theorem State.refuse_pc : (s.refuse).pc = s.pc := rfl
@[simp] theorem State.refuse_k : (s.refuse).k = s.k := rfl
@[simp] theorem State.refuse_status : (s.refuse).status = s.status := rfl
@[simp] theorem State.refuse_initDone : (s.refuse).initDone = s.initDone := rfl
@[simp] theorem State.refuse_synced : (s.refuse).synced = s.synced := rfl
@[simp] theorem State.refuse_fBeforeInit : (s.refuse).fBeforeInit = s.fBeforeInit := rfl
@[simp] theorem State.refuse_refused : (s.refuse).refused = true := rfl
@[simp] theorem State.refuse_latch : (s.refuse).latch = s.latch := rfl
@[simp] theorem State.refuse_rx : (s.refuse).rx = s.rx := rfl
@[simp] theorem State.refuse_xfers : (s.refuse).xfers = s.xfers := rfl
@[simp] theorem State.refuse_trace : (s.refuse).trace = s.trace := rfl
@[simp] theorem State.refuse_port : (s.refuse).port = s.port := rfl
@[simp] theorem State.refuse_xport : (s.refuse).xport = s.xport := rfl
@[simp] theorem State.refuse_bus : (s.refuse).bus = s.bus := rfl
@[simp] theorem State.refuse_draws : (s.refuse).draws = s.draws := rfl

end

/-! ## transportFailure -/

section
variable (s : State) (b : Byte)

@[simp] theorem State.transportFailure_cfg : (s.transportFailure b).cfg = s.cfg := rfl
@[simp] theorem State.transportFailure_sh : (s.transportFailure b).sh = s.sh := rfl
@[simp] theorem State.transportFailure_active : (s.transportFailure b).active = none := rfl
@[simp] theorem State.transportFailure_op : (s.transportFailure b).op = s.op := rfl
@[simp] theorem State.transportFailure_pc : (s.transportFailure b).pc = s.pc := rfl
@[simp] theorem State.transportFailure_k : (s.transportFailure b).k = s.k := rfl
@[simp] theorem State.transportFailure_status : (s.transportFailure b).status = failureStatus s b := rfl
@[simp] theorem State.transportFailure_initDone : (s.transportFailure b).initDone = s.initDone := rfl
@[simp] theorem State.transportFailure_synced : (s.transportFailure b).synced = false := rfl
@[simp] theorem State.transportFailure_fBeforeInit : (s.transportFailure b).fBeforeInit = s.fBeforeInit := rfl
@[simp] theorem State.transportFailure_refused : (s.transportFailure b).refused = s.refused := rfl
@[simp] theorem State.transportFailure_latch : (s.transportFailure b).latch = s.latch := rfl
@[simp] theorem State.transportFailure_rx : (s.transportFailure b).rx = .unknown := rfl
@[simp] theorem State.transportFailure_xfers : (s.transportFailure b).xfers = s.xfers := rfl
@[simp] theorem State.transportFailure_trace : (s.transportFailure b).trace = s.trace ++ [.resp (failureStatus s b)] := rfl
@[simp] theorem State.transportFailure_port : (s.transportFailure b).port = s.port := rfl
@[simp] theorem State.transportFailure_xport : (s.transportFailure b).xport = s.xport := rfl
@[simp] theorem State.transportFailure_bus : (s.transportFailure b).bus = s.bus := rfl
@[simp] theorem State.transportFailure_draws : (s.transportFailure b).draws = s.draws := rfl

end

/-! ## complete -/

section
variable (s : State)

@[simp] theorem State.complete_cfg : (s.complete).cfg = s.cfg := rfl
@[simp] theorem State.complete_w : (s.complete).w = s.w := rfl
@[simp] theorem State.complete_active : (s.complete).active = none := rfl
@[simp] theorem State.complete_op : (s.complete).op = s.op := rfl
@[simp] theorem State.complete_pc : (s.complete).pc = s.pc := rfl
@[simp] theorem State.complete_k : (s.complete).k = s.k := rfl
@[simp] theorem State.complete_status : (s.complete).status = okStatus := rfl
@[simp] theorem State.complete_initDone : (s.complete).initDone = (s.initDone || s.active == some .init) := rfl
@[simp] theorem State.complete_synced : (s.complete).synced = (s.synced || s.active == some .init) := rfl
@[simp] theorem State.complete_fBeforeInit : (s.complete).fBeforeInit = s.fBeforeInit := rfl
@[simp] theorem State.complete_refused : (s.complete).refused = s.refused := rfl
@[simp] theorem State.complete_latch : (s.complete).latch = s.latch := rfl
@[simp] theorem State.complete_rx : (s.complete).rx = s.rx := rfl
@[simp] theorem State.complete_xfers : (s.complete).xfers = s.xfers := rfl
@[simp] theorem State.complete_trace : (s.complete).trace = s.trace ++ [.resp okStatus] := rfl
@[simp] theorem State.complete_port : (s.complete).port = s.port := rfl
@[simp] theorem State.complete_xport : (s.complete).xport = s.xport := rfl
@[simp] theorem State.complete_bus : (s.complete).bus = s.bus := rfl
@[simp] theorem State.complete_draws : (s.complete).draws = s.draws := rfl

end

/-! ## latchNibble -/

section
variable (s : State) (n : Nibble) (m : Mode)

@[simp] theorem State.latchNibble_cfg : (s.latchNibble n m).cfg = s.cfg := by
  unfold State.latchNibble; split <;> (try split) <;> rfl
@[simp] theorem State.latchNibble_sh : (s.latchNibble n m).sh = s.sh := by
  unfold State.latchNibble; split <;> (try split) <;> rfl
@[simp] theorem State.latchNibble_w : (s.latchNibble n m).w = s.w := by
  unfold State.latchNibble; split <;> (try split) <;> rfl
@[simp] theorem State.latchNibble_active : (s.latchNibble n m).active = s.active := by
  unfold State.latchNibble; split <;> (try split) <;> rfl
@[simp] theorem State.latchNibble_op : (s.latchNibble n m).op = s.op := by
  unfold State.latchNibble; split <;> (try split) <;> rfl
@[simp] theorem State.latchNibble_pc : (s.latchNibble n m).pc = s.pc := by
  unfold State.latchNibble; split <;> (try split) <;> rfl
@[simp] theorem State.latchNibble_k : (s.latchNibble n m).k = s.k := by
  unfold State.latchNibble; split <;> (try split) <;> rfl
@[simp] theorem State.latchNibble_status : (s.latchNibble n m).status = s.status := by
  unfold State.latchNibble; split <;> (try split) <;> rfl
@[simp] theorem State.latchNibble_initDone : (s.latchNibble n m).initDone = s.initDone := by
  unfold State.latchNibble; split <;> (try split) <;> rfl
@[simp] theorem State.latchNibble_synced : (s.latchNibble n m).synced = s.synced := by
  unfold State.latchNibble; split <;> (try split) <;> rfl
@[simp] theorem State.latchNibble_fBeforeInit : (s.latchNibble n m).fBeforeInit = s.fBeforeInit := by
  unfold State.latchNibble; split <;> (try split) <;> rfl
@[simp] theorem State.latchNibble_refused : (s.latchNibble n m).refused = s.refused := by
  unfold State.latchNibble; split <;> (try split) <;> rfl
@[simp] theorem State.latchNibble_latch : (s.latchNibble n m).latch = s.latch := by
  unfold State.latchNibble; split <;> (try split) <;> rfl
@[simp] theorem State.latchNibble_trace : (s.latchNibble n m).trace = s.trace := by
  unfold State.latchNibble; split <;> (try split) <;> rfl
@[simp] theorem State.latchNibble_port : (s.latchNibble n m).port = s.port := by
  unfold State.latchNibble; split <;> (try split) <;> rfl
@[simp] theorem State.latchNibble_xport : (s.latchNibble n m).xport = s.xport := by
  unfold State.latchNibble; split <;> (try split) <;> rfl
@[simp] theorem State.latchNibble_bus : (s.latchNibble n m).bus = s.bus := by
  unfold State.latchNibble; split <;> (try split) <;> rfl
@[simp] theorem State.latchNibble_draws : (s.latchNibble n m).draws = s.draws := by
  unfold State.latchNibble; split <;> (try split) <;> rfl

end

/-! ## receive -/

section
variable (s : State) (p b : Byte)

@[simp] theorem State.receive_cfg : (s.receive p b).cfg = s.cfg := by
  unfold State.receive; split <;> (try split) <;> simp
@[simp] theorem State.receive_sh : (s.receive p b).sh = s.sh := by
  unfold State.receive; split <;> (try split) <;> simp
@[simp] theorem State.receive_w : (s.receive p b).w = s.w := by
  unfold State.receive; split <;> (try split) <;> simp
@[simp] theorem State.receive_active : (s.receive p b).active = s.active := by
  unfold State.receive; split <;> (try split) <;> simp
@[simp] theorem State.receive_op : (s.receive p b).op = s.op := by
  unfold State.receive; split <;> (try split) <;> simp
@[simp] theorem State.receive_pc : (s.receive p b).pc = s.pc := by
  unfold State.receive; split <;> (try split) <;> simp
@[simp] theorem State.receive_k : (s.receive p b).k = s.k := by
  unfold State.receive; split <;> (try split) <;> simp
@[simp] theorem State.receive_status : (s.receive p b).status = s.status := by
  unfold State.receive; split <;> (try split) <;> simp
@[simp] theorem State.receive_initDone : (s.receive p b).initDone = s.initDone := by
  unfold State.receive; split <;> (try split) <;> simp
@[simp] theorem State.receive_synced : (s.receive p b).synced = s.synced := by
  unfold State.receive; split <;> (try split) <;> simp
@[simp] theorem State.receive_fBeforeInit : (s.receive p b).fBeforeInit = s.fBeforeInit := by
  unfold State.receive; split <;> (try split) <;> simp
@[simp] theorem State.receive_refused : (s.receive p b).refused = s.refused := by
  unfold State.receive; split <;> (try split) <;> simp
@[simp] theorem State.receive_latch : (s.receive p b).latch = s.latch := by
  unfold State.receive; split <;> (try split) <;> simp
@[simp] theorem State.receive_trace : (s.receive p b).trace = s.trace := by
  unfold State.receive; split <;> (try split) <;> simp
@[simp] theorem State.receive_port : (s.receive p b).port = s.port := by
  unfold State.receive; split <;> (try split) <;> simp
@[simp] theorem State.receive_xport : (s.receive p b).xport = s.xport := by
  unfold State.receive; split <;> (try split) <;> simp
@[simp] theorem State.receive_bus : (s.receive p b).bus = s.bus := by
  unfold State.receive; split <;> (try split) <;> simp
@[simp] theorem State.receive_draws : (s.receive p b).draws = s.draws := by
  unfold State.receive; split <;> (try split) <;> simp

end

/-! ## land -/

section
variable (s : State) (b : Byte)

@[simp] theorem State.land_cfg : (s.land b).cfg = s.cfg := by
  simp [State.land]
@[simp] theorem State.land_sh : (s.land b).sh = s.sh := by
  simp [State.land]
@[simp] theorem State.land_w : (s.land b).w = s.w := by
  simp [State.land]
@[simp] theorem State.land_active : (s.land b).active = s.active := by
  simp [State.land]
@[simp] theorem State.land_op : (s.land b).op = s.op := by
  simp [State.land]
@[simp] theorem State.land_pc : (s.land b).pc = s.pc := by
  simp [State.land]
@[simp] theorem State.land_k : (s.land b).k = s.k := by
  simp [State.land]
@[simp] theorem State.land_status : (s.land b).status = s.status := by
  simp [State.land]
@[simp] theorem State.land_initDone : (s.land b).initDone = s.initDone := by
  simp [State.land]
@[simp] theorem State.land_synced : (s.land b).synced = s.synced := by
  simp [State.land]
@[simp] theorem State.land_fBeforeInit : (s.land b).fBeforeInit = s.fBeforeInit := by
  simp [State.land]
@[simp] theorem State.land_refused : (s.land b).refused = s.refused := by
  simp [State.land]
@[simp] theorem State.land_latch : (s.land b).latch = b := by
  simp [State.land]
@[simp] theorem State.land_rx : (s.land b).rx = (s.receive s.latch b).rx := by
  simp [State.land]
@[simp] theorem State.land_xfers : (s.land b).xfers = (s.receive s.latch b).xfers := by
  simp [State.land]
@[simp] theorem State.land_trace : (s.land b).trace = s.trace := by
  simp [State.land]
@[simp] theorem State.land_port : (s.land b).port = s.port := by
  simp [State.land]
@[simp] theorem State.land_xport : (s.land b).xport = s.xport := by
  simp [State.land]
@[simp] theorem State.land_bus : (s.land b).bus = s.bus := by
  simp [State.land]
@[simp] theorem State.land_draws : (s.land b).draws = s.draws := by
  simp [State.land]

end

/-! ## assign -/

section
variable (s : State) (l : List (Field × Bool))

@[simp] theorem State.assign_cfg : (s.assign l).cfg = s.cfg := by
  unfold State.assign; split <;> rfl
@[simp] theorem State.assign_w : (s.assign l).w = s.w.assign l := by
  unfold State.assign; split <;> rfl
@[simp] theorem State.assign_active : (s.assign l).active = s.active := by
  unfold State.assign; split <;> rfl
@[simp] theorem State.assign_op : (s.assign l).op = s.op := by
  unfold State.assign; split <;> rfl
@[simp] theorem State.assign_pc : (s.assign l).pc = s.pc := by
  unfold State.assign; split <;> rfl
@[simp] theorem State.assign_k : (s.assign l).k = s.k := by
  unfold State.assign; split <;> rfl
@[simp] theorem State.assign_status : (s.assign l).status = s.status := by
  unfold State.assign; split <;> rfl
@[simp] theorem State.assign_initDone : (s.assign l).initDone = s.initDone := by
  unfold State.assign; split <;> rfl
@[simp] theorem State.assign_synced : (s.assign l).synced = s.synced := by
  unfold State.assign; split <;> rfl
@[simp] theorem State.assign_fBeforeInit : (s.assign l).fBeforeInit = s.fBeforeInit := by
  unfold State.assign; split <;> rfl
@[simp] theorem State.assign_refused : (s.assign l).refused = s.refused := by
  unfold State.assign; split <;> rfl
@[simp] theorem State.assign_latch : (s.assign l).latch = s.latch := by
  unfold State.assign; split <;> rfl
@[simp] theorem State.assign_rx : (s.assign l).rx = s.rx := by
  unfold State.assign; split <;> rfl
@[simp] theorem State.assign_xfers : (s.assign l).xfers = s.xfers := by
  unfold State.assign; split <;> rfl
@[simp] theorem State.assign_trace : (s.assign l).trace = s.trace := by
  unfold State.assign; split <;> rfl
@[simp] theorem State.assign_port : (s.assign l).port = s.port := by
  unfold State.assign; split <;> rfl
@[simp] theorem State.assign_xport : (s.assign l).xport = s.xport := by
  unfold State.assign; split <;> rfl
@[simp] theorem State.assign_bus : (s.assign l).bus = s.bus := by
  unfold State.assign; split <;> rfl
@[simp] theorem State.assign_draws : (s.assign l).draws = s.draws := by
  unfold State.assign; split <;> rfl

end

/-! ## accept -/

section
variable (s : State) (i : Instr)

@[simp] theorem State.accept_cfg : (s.accept i).cfg = s.cfg := by
  unfold State.accept; dsimp only; split <;> rfl
@[simp] theorem State.accept_sh : (s.accept i).sh = s.sh := by
  unfold State.accept; dsimp only; split <;> rfl
@[simp] theorem State.accept_w : (s.accept i).w = s.sh := by
  unfold State.accept; dsimp only; split <;> rfl
@[simp] theorem State.accept_active : (s.accept i).active = some i := by
  unfold State.accept; dsimp only; split <;> rfl
@[simp] theorem State.accept_op : (s.accept i).op = requestOpcode i := by
  unfold State.accept; dsimp only; split <;> rfl
@[simp] theorem State.accept_pc : (s.accept i).pc = 0 := by
  unfold State.accept; dsimp only; split <;> rfl
@[simp] theorem State.accept_k : (s.accept i).k = 0 := by
  unfold State.accept; dsimp only; split <;> rfl
@[simp] theorem State.accept_status : (s.accept i).status = s.status := by
  unfold State.accept; dsimp only; split <;> rfl
@[simp] theorem State.accept_refused : (s.accept i).refused = s.refused := by
  unfold State.accept; dsimp only; split <;> rfl
@[simp] theorem State.accept_latch : (s.accept i).latch = s.latch := by
  unfold State.accept; dsimp only; split <;> rfl
@[simp] theorem State.accept_xfers : (s.accept i).xfers = s.xfers := by
  unfold State.accept; dsimp only; split <;> rfl
@[simp] theorem State.accept_trace : (s.accept i).trace = s.trace := by
  unfold State.accept; dsimp only; split <;> rfl
@[simp] theorem State.accept_port : (s.accept i).port = s.port := by
  unfold State.accept; dsimp only; split <;> rfl
@[simp] theorem State.accept_xport : (s.accept i).xport = s.xport := by
  unfold State.accept; dsimp only; split <;> rfl
@[simp] theorem State.accept_bus : (s.accept i).bus = s.bus := by
  unfold State.accept; dsimp only; split <;> rfl
@[simp] theorem State.accept_draws : (s.accept i).draws = s.draws := by
  unfold State.accept; dsimp only; split <;> rfl

end

/-! ## beginTransport -/

section
variable (s : State)

@[simp] theorem State.beginTransport_cfg : (s.beginTransport).cfg = s.cfg := by
  unfold State.beginTransport; split <;> rfl
@[simp] theorem State.beginTransport_sh : (s.beginTransport).sh = s.sh := by
  unfold State.beginTransport; split <;> rfl
@[simp] theorem State.beginTransport_w : (s.beginTransport).w = s.w := by
  unfold State.beginTransport; split <;> rfl
@[simp] theorem State.beginTransport_active : (s.beginTransport).active = s.active := by
  unfold State.beginTransport; split <;> rfl
@[simp] theorem State.beginTransport_op : (s.beginTransport).op = s.op := by
  unfold State.beginTransport; split <;> rfl
@[simp] theorem State.beginTransport_status : (s.beginTransport).status = s.status := by
  unfold State.beginTransport; split <;> rfl
@[simp] theorem State.beginTransport_initDone : (s.beginTransport).initDone = s.initDone := by
  unfold State.beginTransport; split <;> rfl
@[simp] theorem State.beginTransport_synced : (s.beginTransport).synced = s.synced := by
  unfold State.beginTransport; split <;> rfl
@[simp] theorem State.beginTransport_fBeforeInit : (s.beginTransport).fBeforeInit = s.fBeforeInit := by
  unfold State.beginTransport; split <;> rfl
@[simp] theorem State.beginTransport_refused : (s.beginTransport).refused = s.refused := by
  unfold State.beginTransport; split <;> rfl
@[simp] theorem State.beginTransport_latch : (s.beginTransport).latch = s.latch := by
  unfold State.beginTransport; split <;> rfl
@[simp] theorem State.beginTransport_rx : (s.beginTransport).rx = s.rx := by
  unfold State.beginTransport; split <;> rfl
@[simp] theorem State.beginTransport_xfers : (s.beginTransport).xfers = s.xfers := by
  unfold State.beginTransport; split <;> rfl
@[simp] theorem State.beginTransport_trace : (s.beginTransport).trace = s.trace := by
  unfold State.beginTransport; split <;> rfl
@[simp] theorem State.beginTransport_port : (s.beginTransport).port = s.port := by
  unfold State.beginTransport; split <;> rfl
@[simp] theorem State.beginTransport_xport : (s.beginTransport).xport = s.xport := by
  unfold State.beginTransport; split <;> rfl
@[simp] theorem State.beginTransport_bus : (s.beginTransport).bus = s.bus := by
  unfold State.beginTransport; split <;> rfl
@[simp] theorem State.beginTransport_draws : (s.beginTransport).draws = s.draws := by
  unfold State.beginTransport; split <;> rfl

end

/-! ## The fields whose value depends on the policy, the instruction or BUSY -/

section
variable (s : State)

theorem State.transportFailure_w (b : Byte) :
    (s.transportFailure b).w = match s.cfg.policy with
      | .confirmed => s.sh
      | .optimistic => s.w := rfl

theorem State.complete_sh :
    s.complete.sh = match s.cfg.policy with
      | .confirmed => s.w
      | .optimistic => s.sh := rfl

theorem State.assign_sh (l : List (Field × Bool)) :
    (s.assign l).sh = match s.cfg.policy with
      | .confirmed => s.sh
      | .optimistic => s.sh.assign l := by
  unfold State.assign; split <;> simp_all

@[simp] theorem State.accept_initDone (i : Instr) :
    (s.accept i).initDone = if i = .init then false else s.initDone := by
  unfold State.accept; dsimp only; split <;> rfl

@[simp] theorem State.accept_synced (i : Instr) :
    (s.accept i).synced = if i = .init then false else s.synced := by
  unfold State.accept; dsimp only; split <;> rfl

@[simp] theorem State.accept_rx (i : Instr) :
    (s.accept i).rx = if i = .init then .unknown else s.rx := by
  unfold State.accept; dsimp only; split <;> rfl

@[simp] theorem State.accept_fBeforeInit (i : Instr) :
    (s.accept i).fBeforeInit = if i = .init then s.fBeforeInit else (s.fBeforeInit || !s.initDone) := by
  unfold State.accept; dsimp only; split <;> rfl

@[simp] theorem State.beginTransport_pc :
    s.beginTransport.pc = if s.busy then s.pc else 0 := by
  unfold State.beginTransport; cases s.busy <;> rfl

@[simp] theorem State.beginTransport_k :
    s.beginTransport.k = if s.busy then s.k else 0 := by
  unfold State.beginTransport; cases s.busy <;> rfl

end

/-! ## The receiver as a function of its own state -/

/-- RX after a nibble is latched (20_memory.md R70). -/
def rxTake (n : Nibble) (m : Mode) : Rx → Rx
  | .unknown => .unknown
  | .hi => .lo n m
  | .lo _ r0 => if m = r0 then .hi else .unknown

/-- The transfers a latched nibble completes: one, or none (R70). -/
def rxGives (n : Nibble) (m : Mode) : Rx → List Transfer
  | .unknown => []
  | .hi => []
  | .lo h r0 => if m = r0 then [{ rs := m, byte := h ++ n }] else []

/-- Latching a nibble changes RX and XFERS, each by a function of RX alone. -/
theorem State.latchNibble_eq (s : State) (n : Nibble) (m : Mode) :
    s.latchNibble n m = { s with rx := rxTake n m s.rx, xfers := s.xfers ++ rxGives n m s.rx } := by
  obtain ⟨_, _, _, _, _, _, _, _, _, _, _, _, _, rx, _, _, _, _, _, _⟩ := s
  cases rx with
  | unknown => simp [State.latchNibble, rxTake, rxGives]
  | hi => simp [State.latchNibble, rxTake, rxGives]
  | lo h r0 => by_cases hm : m = r0 <;> simp [State.latchNibble, rxTake, rxGives, hm]

end Sys2Proof.Machine
end

