-- ==== Sys2Proof/Laws/Ops.lean ====
section
/-! SUPPORT. One lemma per shared operation, saying once everything it can do; the statements' proofs cite
these and do not unfold the operations. -/

namespace Sys2Proof.Machine

/-! ## The bus -/

/-- Taking an answer moves every later answer one place forward. -/
@[simp] theorem State.answerAt_takeAnswer (s : State) (j : Nat) :
    s.takeAnswer.answerAt j = s.answerAt (j + 1) := by
  unfold State.answerAt State.takeAnswer
  have h : s.draws + 1 + j = s.draws + (j + 1) := by omega
  cases hb : s.bus <;> simp [h]

/-- The answers depend on the two bus fields alone. -/
theorem State.answerAt_congr {s t : State} (hb : t.bus = s.bus) (hd : t.draws = s.draws) (j : Nat) :
    t.answerAt j = s.answerAt j := by
  unfold State.answerAt; rw [hb, hd]

/-- After `n` answers taken, the j-th coming answer is the (n + j)-th. -/
theorem State.answerAt_drop {s t : State} {n : Nat} (hb : t.bus = s.bus.drop n) (hd : t.draws = s.draws + n)
    (j : Nat) : t.answerAt j = s.answerAt (n + j) := by
  unfold State.answerAt; rw [hb, hd, List.getElem?_drop, Nat.add_assoc]

theorem State.busOk_mono {s : State} {m n : Nat} (h : s.busOk n) (hmn : m ≤ n) : s.busOk m :=
  fun j hj => h j (Nat.lt_of_lt_of_le hj hmn)

theorem State.busOk_congr {s t : State} {n : Nat} (hb : t.bus = s.bus) (hd : t.draws = s.draws)
    (h : s.busOk n) : t.busOk n :=
  fun j hj => (State.answerAt_congr hb hd j).trans (h j hj)

/-- A bus with `m` answers given has `n` coming answers ok if it had `m + n`. -/
theorem State.busOk_drop {s t : State} {m n : Nat} (hb : t.bus = s.bus.drop m) (hd : t.draws = s.draws + m)
    (h : s.busOk (m + n)) : t.busOk n :=
  fun j hj => (State.answerAt_drop hb hd j).trans (h _ (by omega))

/-- A listed run of `ok` answers. -/
theorem State.busOk_of_replicate {s : State} {n : Nat} {rest : List BusAnswer}
    (h : s.bus = List.replicate n .ok ++ rest) : s.busOk n := by
  intro j hj
  unfold State.answerAt
  rw [h, List.getElem?_append_left (by simpa using hj), List.getElem?_replicate_of_lt hj]
  rfl

/-! ## The bus write and the micro-step -/

/-- The state after a write with byte `b` that the bus has completed. -/
def State.wrote (b : Byte) (s : State) : State :=
  { ((s.emit (.wr s.cfg.addr b)).takeAnswer).land b with k := s.k + 1 }

/-- The two outcomes of `MemWrite` and what each leaves (R15, R66, R244). -/
theorem State.memWrite_cases (s : State) (b : Byte) :
    (s.answerAt 0 = .ok ∧ s.memWrite b = .going (s.wrote b)) ∨
    (s.answerAt 0 = .failOld ∧
      s.memWrite b = .aborted ((s.emit (.wr s.cfg.addr b)).takeAnswer.transportFailure b)) ∨
    (s.answerAt 0 = .failLanded ∧
      s.memWrite b = .aborted (((s.emit (.wr s.cfg.addr b)).takeAnswer.land b).transportFailure b)) := by
  unfold State.memWrite
  cases h : s.answerAt 0 with
  | ok => exact .inl ⟨rfl, rfl⟩
  | failOld => exact .inr (.inl ⟨rfl, rfl⟩)
  | failLanded => exact .inr (.inr ⟨rfl, rfl⟩)

/-- The state after one micro-step whose write, if it makes one, the bus completes. -/
def State.okMicro (m : Micro) (s : State) : State :=
  match m with
  | .write x => (s.wrote (x.byte s.cfg s.w ||| backlightBit s.cfg s.w.backlightOn)).nextPc
  | .sleep d => (s.sleep d).nextPc
  | .sleepReady d => { (s.sleep d).nextPc with rx := .hi }
  | .assign l => (s.assign l).nextPc

/-- One micro-step goes on, unless it is a write the bus fails. -/
theorem State.micro_ok {s : State} {m : Micro} (h : m.isWrite = true → s.answerAt 0 = .ok) :
    s.micro m = .going (s.okMicro m) := by
  cases m with
  | write x =>
    have h0 := h rfl
    simp only [State.micro, State.expanderWrite, State.memWrite, State.okMicro, State.wrote, h0]
  | sleep d => rfl
  | sleepReady d => rfl
  | assign l => rfl

/-- A failed write ends the operation in the failure of R244, with the latch the bus's draw gives it. -/
theorem State.micro_fail {s : State} {x : WriteArg} (h : s.answerAt 0 ≠ .ok) :
    let b := x.byte s.cfg s.w ||| backlightBit s.cfg s.w.backlightOn
    let issued := (s.emit (.wr s.cfg.addr b)).takeAnswer
    (s.answerAt 0 = .failOld ∧ s.micro (.write x) = .aborted (issued.transportFailure b)) ∨
    (s.answerAt 0 = .failLanded ∧ s.micro (.write x) = .aborted ((issued.land b).transportFailure b)) := by
  rcases s.memWrite_cases (x.byte s.cfg s.w ||| backlightBit s.cfg s.w.backlightOn) with ⟨h0, -⟩ | ⟨h0, h1⟩ | ⟨h0, h1⟩
  · exact absurd h0 h
  · left; refine ⟨h0, ?_⟩; simp only [State.micro, State.expanderWrite, h1]
  · right; refine ⟨h0, ?_⟩; simp only [State.micro, State.expanderWrite, h1]

/-- Running two lists is running the first and, if it goes on, the second. -/
theorem State.runMicros_append (s : State) (l r : List Micro) :
    s.runMicros (l ++ r) = match s.runMicros l with
      | .going t => t.runMicros r
      | .aborted t => .aborted t := by
  induction l generalizing s with
  | nil => rfl
  | cons m l ih =>
    simp only [List.cons_append, State.runMicros]
    cases s.micro m with
    | going t => exact ih t
    | aborted t => rfl

@[simp] theorem State.runMicros_nil (s : State) : s.runMicros [] = .going s := rfl

theorem State.runMicros_cons (s : State) (m : Micro) (l : List Micro) :
    s.runMicros (m :: l) = match s.micro m with
      | .going t => t.runMicros l
      | .aborted t => .aborted t := rfl

/-- A micro-step takes one answer if it writes, and none otherwise. -/
theorem State.okMicro_bus (s : State) (m : Micro) :
    (s.okMicro m).bus = s.bus.drop (if m.isWrite then 1 else 0) ∧
    (s.okMicro m).draws = s.draws + (if m.isWrite then 1 else 0) := by
  cases m <;> simp [State.okMicro, State.wrote, Micro.isWrite]

@[simp] theorem writeCount_cons (m : Micro) (l : List Micro) :
    writeCount (m :: l) = writeCount l + (if m.isWrite then 1 else 0) := by
  simp [writeCount, List.countP_cons]

@[simp] theorem writeCount_nil : writeCount [] = 0 := rfl

@[simp] theorem writeCount_append (l r : List Micro) : writeCount (l ++ r) = writeCount l + writeCount r := by
  simp [writeCount]

/-- With every write completed, a list of micro-steps is the fold of its steps. -/
theorem State.runMicros_ok {s : State} {l : List Micro} (h : s.busOk (writeCount l)) :
    s.runMicros l = .going (l.foldl (fun s m => s.okMicro m) s) := by
  induction l generalizing s with
  | nil => rfl
  | cons m l ih =>
    rw [writeCount_cons] at h
    have hm : m.isWrite = true → s.answerAt 0 = .ok := fun hw => h 0 (by simp [hw])
    rw [State.runMicros_cons, State.micro_ok hm]
    obtain ⟨hb, hd⟩ := s.okMicro_bus m
    exact ih (State.busOk_drop hb hd (State.busOk_mono h (by omega)))

/-! ## Requests -/

theorem State.busy_false_iff (s : State) : s.busy = false ↔ s.active = none := by
  simp [State.busy]

@[simp] theorem performRequest_busy {i : Instr} {l : List Micro} {s : State} (h : s.busy = true) :
    performRequest i l s = .next s := by
  simp [performRequest, h]

@[simp] theorem performRequest_idle {i : Instr} {l : List Micro} {s : State} (h : s.busy = false) :
    performRequest i l s = .next ((s.accept i).runMicros l).settle := by
  simp [performRequest, h]

/-- A request's meaning performs the list the sequencer's PC indexes. -/
theorem exec_request {i : Instr} (s : State) (h : i.isRequest = true) :
    exec i s = performRequest i (program s.cfg i) s := by
  cases i <;> first | rfl | exact absurd h (by decide) | exact absurd h (by simp [Instr.isRequest])

/-- So does the meaning of a row that is no request, without acceptance or response. -/
theorem exec_transport {i : Instr} (s : State) (h : i.isRequest = false) :
    exec i s = performTransport (program s.cfg i) s := by
  cases i <;> first | rfl | exact absurd h (by simp [Instr.isRequest])

/-- Every instruction answers a next state. -/
theorem exec_next (i : Instr) (s : State) : ∃ t, exec i s = .next t := by
  cases h : i.isRequest with
  | false => exact ⟨_, exec_transport s h⟩
  | true =>
    cases hb : s.busy with
    | true => exact ⟨s, by rw [exec_request s h, performRequest_busy hb]⟩
    | false => exact ⟨_, by rw [exec_request s h, performRequest_idle hb]⟩

/-! ## The step -/

/-- A decoded code is executed, any other is refused. -/
theorem runCode_cases (c : Code) (s : State) :
    (∃ i, decode c = .ok i ∧ runCode c s = exec i s) ∨
    (∃ e, decode c = .error e ∧ runCode c s = .next s.refuse) := by
  unfold runCode
  cases h : decode c with
  | ok i => exact .inl ⟨i, rfl, rfl⟩
  | error e => exact .inr ⟨e, rfl, rfl⟩

/-- Everything a step can do: one micro-step of the request in progress, nothing, or the code taken from
the transport latch or the port, executed or refused. -/
theorem step_cases (s : State) :
    (s.busy = true ∧ step s = .next s.advance) ∨
    (s.busy = false ∧ s.xport = none ∧ fetchRequest s.port = .nothing ∧ step s = .next s) ∨
    (∃ c u, s.busy = false ∧
      ((∃ t, c = .transport t ∧ s.xport = some t ∧ u = { s with xport := none }) ∨
       (∃ q payload rest, c = .request q payload ∧ s.xport = none ∧
          fetchRequest s.port = .request q payload rest ∧ u = { s with port := rest })) ∧
      ((∃ i, decode c = .ok i ∧ step s = exec i u) ∨
       (∃ e, decode c = .error e ∧ step s = .next u.refuse))) := by
  cases hb : s.busy with
  | true => left; simp [step, hb]
  | false =>
    right
    cases hx : s.xport with
    | some t =>
      right
      refine ⟨.transport t, { s with xport := none }, rfl, .inl ⟨t, rfl, rfl, by simp⟩, ?_⟩
      rcases runCode_cases (.transport t) { s with xport := none } with ⟨i, h1, h2⟩ | ⟨e, h1, h2⟩
      · exact .inl ⟨i, h1, by simpa [step, hb, hx] using h2⟩
      · exact .inr ⟨e, h1, by simpa [step, hb, hx] using h2⟩
    | none =>
      cases hf : fetchRequest s.port with
      | nothing => left; simp [step, hb, hx, hf]
      | request q payload rest =>
        right
        refine ⟨.request q payload, { s with port := rest }, rfl,
          .inr ⟨q, payload, rest, rfl, rfl, rfl, by simp [hx]⟩, ?_⟩
        rcases runCode_cases (.request q payload) { s with port := rest } with ⟨i, h1, h2⟩ | ⟨e, h1, h2⟩
        · exact .inl ⟨i, h1, by simpa [step, hb, hx, hf] using h2⟩
        · exact .inr ⟨e, h1, by simpa [step, hb, hx, hf] using h2⟩

/-- The request port offers a whole request, or nothing. -/
theorem fetchRequest_cons (q : Word) (payload rest : List Word) (h : payload.length = payloadLength q) :
    fetchRequest (q :: payload ++ rest) = .request q payload rest := by
  simp [fetchRequest, ← h]

end Sys2Proof.Machine
end

