-- ==== Sys2Proof/Laws/Transport.lean ====
section
/-! SUPPORT. What the Transport Multiplexer's lists do when the bus completes their writes: one latched
nibble for WriteNibble, one transfer for SendByte. -/

namespace Sys2Proof.Machine

/-! ## The expander bytes of a nibble -/

/-- The nibble of one half of a byte. -/
def halfNibble (half : Half) (v : Byte) : Nibble :=
  match half with
  | .high => v.extractLsb' 4 4
  | .low => v.extractLsb' 0 4

/-- A nibble byte: the nibble on the data lines, the mode on the register-select line (30_encoding.md R100). -/
def nibbleLines (c : Cfg) (n : Nibble) (m : Mode) : Byte := dataBits c n ||| modeBits c m

theorem highNibbleByte_eq (c : Cfg) (v : Byte) (m : Mode) :
    highNibbleByte c v m = nibbleLines c (v.extractLsb' 4 4) m := rfl

theorem lowNibbleByte_eq (c : Cfg) (v : Byte) (m : Mode) :
    lowNibbleByte c v m = nibbleLines c (v.extractLsb' 0 4) m := rfl

theorem nibbleByte_eq (c : Cfg) (w : Shadow) (v : Value) (half : Half) (m : Mode) :
    nibbleByte c w v half m = nibbleLines c (halfNibble half (v.eval w)) m := by
  cases half <;> rfl

/-! ## One line of a byte -/

/-- Reading a line is reading its bit. -/
theorem lineHigh_lineMask (b : Byte) (i : Fin 8) : lineHigh b (lineMask i) = b.getLsbD i.val := by
  revert b i; decide

/-- A line of a byte put together from two is high if it is high in one of them. -/
theorem lineHigh_or (a b : Byte) (i : Fin 8) :
    lineHigh (a ||| b) (lineMask i) = (lineHigh a (lineMask i) || lineHigh b (lineMask i)) := by
  simp only [lineHigh_lineMask, BitVec.getLsbD_or]

theorem lineHigh_mask (i j : Fin 8) : lineHigh (lineMask i) (lineMask j) = (i == j) := by
  revert i j; decide

theorem lineHigh_zero (i : Fin 8) : lineHigh 0x00 (lineMask i) = false := by
  revert i; decide

/-- Is line `i` one of the data lines? -/
def isDataLine (c : Cfg) (i : Fin 8) : Bool := decide (c.lines.d4.val ≤ i.val) && decide (i.val < c.lines.d4.val + 4)

/-- What `linesApart` says: the control lines are off the data lines and differ. -/
theorem lines_distinct (c : Cfg) :
    (isDataLine c c.lines.rs = false ∧ isDataLine c c.lines.en = false ∧ isDataLine c c.lines.rw = false ∧
      isDataLine c c.lines.bl = false) ∧
    c.lines.rs ≠ c.lines.en ∧ c.lines.rs ≠ c.lines.rw ∧ c.lines.rs ≠ c.lines.bl ∧ c.lines.en ≠ c.lines.rw ∧
    c.lines.en ≠ c.lines.bl ∧ c.lines.rw ≠ c.lines.bl := by
  have h := c.lines.apart
  simp only [linesApart, Bool.and_eq_true, Bool.or_eq_true, decide_eq_true_eq, bne_iff_ne] at h
  obtain ⟨⟨⟨⟨⟨⟨⟨⟨⟨h1, h2⟩, h3⟩, h4⟩, h5⟩, h6⟩, h7⟩, h8⟩, h9⟩, h10⟩ := h
  refine ⟨⟨?_, ?_, ?_, ?_⟩, h5, h6, h7, h8, h9, h10⟩ <;> simp [isDataLine] <;> omega

section
variable (c : Cfg) (on : Bool) (n : Nibble) (m : Mode)

/-- A byte of data lines has its other lines low. -/
theorem dataBits_line (i : Fin 8) (h : isDataLine c i = false) : lineHigh (dataBits c n) (lineMask i) = false := by
  revert h
  unfold isDataLine dataBits
  generalize c.lines.d4 = d
  revert n d i; decide

/-- The nibble of a byte put together from two is put together from theirs. -/
theorem nibbleOfByte_or (a b : Byte) : nibbleOfByte c (a ||| b) = nibbleOfByte c a ||| nibbleOfByte c b := by
  ext i hi; simp [nibbleOfByte]

/-- The data lines give the nibble back. -/
theorem dataBits_nibble : nibbleOfByte c (dataBits c n) = n := by
  unfold nibbleOfByte dataBits
  generalize c.lines.d4 = d
  revert n d; decide

/-- A byte with one line high carries no nibble, unless that is a data line. -/
theorem lineMask_nibble (i : Fin 8) (h : isDataLine c i = false) : nibbleOfByte c (lineMask i) = 0#4 := by
  revert h
  unfold isDataLine nibbleOfByte
  generalize c.lines.d4 = d
  revert d i; decide

/-- The control lines of a nibble byte: register-select, for a data byte. -/
theorem nibbleLines_line (i : Fin 8) (h : isDataLine c i = false) :
    lineHigh (nibbleLines c n m) (lineMask i) = (m == .data && c.lines.rs == i) := by
  rw [nibbleLines, lineHigh_or, dataBits_line c n i h]
  cases m
  · exact lineHigh_zero i
  · simp [modeBits, rsMask, lineHigh_mask]

theorem backlightBit_line (i : Fin 8) : lineHigh (backlightBit c on) (lineMask i) = (on && c.lines.bl == i) := by
  cases on
  · exact lineHigh_zero i
  · simp [backlightBit, blMask, lineHigh_mask]

/-- Clearing a line that is low changes nothing. -/
theorem clear_low (b : Byte) (i : Fin 8) (h : lineHigh b (lineMask i) = false) : b &&& ~~~(lineMask i) = b := by
  revert b i; decide

/-- The argument that lowers the enable line is the nibble byte itself (40_transport.md R142). -/
theorem writeArg_low (w : Shadow) (v : Value) (half : Half) :
    (WriteArg.nibble v half m false).byte c w = nibbleLines c (halfNibble half (v.eval w)) m := by
  obtain ⟨⟨-, h, -, -⟩, h1, -⟩ := lines_distinct c
  simp only [WriteArg.byte, nibbleByte_eq, Bool.false_eq_true, if_false]
  exact clear_low _ _ (by simp [nibbleLines_line, h, h1])

theorem writeArg_high (w : Shadow) (v : Value) (half : Half) :
    (WriteArg.nibble v half m true).byte c w = nibbleLines c (halfNibble half (v.eval w)) m ||| enMask c := by
  simp only [WriteArg.byte, nibbleByte_eq, if_true]

theorem high_rw : lineHigh (nibbleLines c n m ||| enMask c ||| backlightBit c on) (rwMask c) = false := by
  obtain ⟨⟨-, -, h, -⟩, -, h1, -, h2, -, h3⟩ := lines_distinct c
  simp [rwMask, enMask, lineHigh_or, lineHigh_mask, nibbleLines_line, h, backlightBit_line, h1, h2, h3.symm]

theorem high_en : lineHigh (nibbleLines c n m ||| enMask c ||| backlightBit c on) (enMask c) = true := by
  simp [enMask, lineHigh_or, lineHigh_mask]

theorem low_rw : lineHigh (nibbleLines c n m ||| backlightBit c on) (rwMask c) = false := by
  obtain ⟨⟨-, -, h, -⟩, -, h1, -, -, -, h3⟩ := lines_distinct c
  simp [rwMask, lineHigh_or, nibbleLines_line, h, backlightBit_line, h1, h3.symm]

theorem low_en : lineHigh (nibbleLines c n m ||| backlightBit c on) (enMask c) = false := by
  obtain ⟨⟨-, h, -, -⟩, h1, -, -, -, h2, -⟩ := lines_distinct c
  simp [enMask, lineHigh_or, nibbleLines_line, h, backlightBit_line, h1, h2.symm]

theorem low_nibble : nibbleOfByte c (nibbleLines c n m ||| backlightBit c on) = n := by
  obtain ⟨⟨hr, -, -, hb⟩, -⟩ := lines_distinct c
  have z : nibbleOfByte c 0x00 = 0#4 := by ext i hi; simp [nibbleOfByte]
  have hm : nibbleOfByte c (modeBits c m) = 0#4 := by
    cases m
    · exact z
    · exact lineMask_nibble c _ hr
  have ho : nibbleOfByte c (backlightBit c on) = 0#4 := by
    cases on
    · exact z
    · exact lineMask_nibble c _ hb
  rw [nibbleLines, nibbleOfByte_or, nibbleOfByte_or, dataBits_nibble, hm, ho, BitVec.or_zero, BitVec.or_zero]

theorem low_mode : modeOfByte c (nibbleLines c n m ||| backlightBit c on) = m := by
  obtain ⟨⟨h, -, -, -⟩, -, -, h1, -⟩ := lines_distinct c
  cases m <;> simp [modeOfByte, rsMask, lineHigh_or, nibbleLines_line, h, backlightBit_line, h1.symm]

/-- The backlight line of a nibble byte is the backlight bit's alone (40_transport.md R141). -/
theorem low_bl : lineHigh (nibbleLines c n m ||| backlightBit c on) (blMask c) = on := by
  obtain ⟨⟨-, -, -, h⟩, -, -, h1, -⟩ := lines_distinct c
  simp [blMask, lineHigh_or, nibbleLines_line, h, backlightBit_line, h1]

theorem high_bl : lineHigh (nibbleLines c n m ||| enMask c ||| backlightBit c on) (blMask c) = on := by
  obtain ⟨⟨-, -, -, h⟩, -, -, h1, -, h2, -⟩ := lines_distinct c
  simp [blMask, enMask, lineHigh_or, lineHigh_mask, nibbleLines_line, h, backlightBit_line, h1, h2]

theorem zero_rw : lineHigh (0x00 ||| backlightBit c on) (rwMask c) = false := by
  obtain ⟨-, -, -, -, -, -, h⟩ := lines_distinct c
  rw [rwMask, lineHigh_or, lineHigh_zero, backlightBit_line]
  simp [h.symm]

theorem zero_en : lineHigh (0x00 ||| backlightBit c on) (enMask c) = false := by
  obtain ⟨-, -, -, -, -, h, -⟩ := lines_distinct c
  rw [enMask, lineHigh_or, lineHigh_zero, backlightBit_line]
  simp [h.symm]

theorem zero_bl : lineHigh (0x00 ||| backlightBit c on) (blMask c) = on := by
  rw [blMask, lineHigh_or, lineHigh_zero, backlightBit_line]
  simp

end

/-! ## One write the bus completes -/

/-- The state after a completed write of byte `b` that leaves the receiver alone. -/
def State.wroteQuietly (b : Byte) (s : State) : State :=
  { s with
    latch := b, trace := s.trace ++ [.wr s.cfg.addr b], k := s.k + 1, pc := s.pc + 1
    bus := s.bus.tail, draws := s.draws + 1 }

/-- The write that raises the enable line latches nothing (40_transport.md R144). -/
theorem State.okMicro_high (s : State) (v : Value) (half : Half) (m : Mode) :
    s.okMicro (.write (.nibble v half m true)) =
      s.wroteQuietly (nibbleLines s.cfg (halfNibble half (v.eval s.w)) m ||| enMask s.cfg ||| backlightBit s.cfg s.w.backlightOn) := by
  simp only [State.okMicro, writeArg_high, State.wrote, State.land, State.receive, State.emit_cfg,
    State.takeAnswer_cfg, high_rw, high_en, Bool.not_true, Bool.and_false, Bool.false_eq_true, if_false]
  rfl

/-- The write that lowers an enable line that is high latches its nibble (20_memory.md R70). -/
theorem State.okMicro_low (s : State) (v : Value) (half : Half) (m : Mode)
    (h : lineHigh s.latch (enMask s.cfg) = true) :
    let n := halfNibble half (v.eval s.w)
    s.okMicro (.write (.nibble v half m false)) =
      { s.latchNibble n m with
        latch := nibbleLines s.cfg n m ||| backlightBit s.cfg s.w.backlightOn
        trace := s.trace ++ [.wr s.cfg.addr (nibbleLines s.cfg n m ||| backlightBit s.cfg s.w.backlightOn)]
        k := s.k + 1, pc := s.pc + 1, bus := s.bus.tail, draws := s.draws + 1 } := by
  simp only [State.okMicro, writeArg_low, State.wrote, State.land, State.receive, State.emit_cfg,
    State.takeAnswer_cfg, State.emit_latch, State.takeAnswer_latch, low_rw, low_en, low_nibble, low_mode, h,
    Bool.not_false, Bool.and_true, Bool.false_eq_true, if_false, if_true]
  generalize halfNibble half (v.eval s.w) = n
  simp only [State.latchNibble_eq, State.emit, State.takeAnswer, State.nextPc]

/-- The write of 0x00 changes no more than the latch when the enable line is low or the receiver UNKNOWN
(42_commands.md R194). -/
theorem State.okMicro_zero (s : State) (h : s.rx ≠ .unknown → lineHigh s.latch (enMask s.cfg) = false) :
    s.okMicro (.write .zero) = s.wroteQuietly (backlightBit s.cfg s.w.backlightOn) := by
  have hb : (WriteArg.byte s.cfg s.w .zero) ||| backlightBit s.cfg s.w.backlightOn = backlightBit s.cfg s.w.backlightOn := by
    simp [WriteArg.byte]
  have hz := zero_rw s.cfg s.w.backlightOn
  have hq : (0x00 : Byte) ||| backlightBit s.cfg s.w.backlightOn = backlightBit s.cfg s.w.backlightOn := by simp
  rw [hq] at hz
  simp only [State.okMicro, hb, State.wrote, State.land, State.receive, State.emit_cfg, State.takeAnswer_cfg,
    State.emit_latch, State.takeAnswer_latch, hz, Bool.false_eq_true, if_false]
  by_cases hr : s.rx = .unknown
  · split
    · simp [State.latchNibble, State.emit, State.takeAnswer, State.nextPc, State.wroteQuietly, hr]
    · rfl
  · simp [h hr, State.emit, State.takeAnswer, State.nextPc, State.wroteQuietly]

/-! ## The receiver over a list of transfers -/

/-- RX after the two nibbles of a transfer. -/
def rxTransfer (t : Transfer) (r : Rx) : Rx :=
  rxTake (t.byte.extractLsb' 0 4) t.rs (rxTake (t.byte.extractLsb' 4 4) t.rs r)

/-- The transfers the two nibbles complete. -/
def rxCompletes (t : Transfer) (r : Rx) : List Transfer :=
  rxGives (t.byte.extractLsb' 4 4) t.rs r ++
    rxGives (t.byte.extractLsb' 0 4) t.rs (rxTake (t.byte.extractLsb' 4 4) t.rs r)

/-- RX after a list of transfers. -/
def rxAfter : List Transfer → Rx → Rx
  | [], r => r
  | t :: ts, r => rxAfter ts (rxTransfer t r)

/-- The transfers a list of sent transfers completes. -/
def rxDelivered : List Transfer → Rx → List Transfer
  | [], _ => []
  | t :: ts, r => rxCompletes t r ++ rxDelivered ts (rxTransfer t r)

/-- Receiving changes RX and XFERS, each by a function of RX alone. -/
theorem State.received_eq (s : State) (ts : List Transfer) :
    s.received ts = { s with rx := rxAfter ts s.rx, xfers := s.xfers ++ rxDelivered ts s.rx } := by
  induction ts generalizing s with
  | nil => simp [State.received, rxAfter, rxDelivered]
  | cons t ts ih =>
    have h : s.received (t :: ts) = (s.received [t]).received ts := rfl
    have h1 : s.received [t] =
        { s with rx := rxTransfer t s.rx, xfers := s.xfers ++ rxCompletes t s.rx } := by
      simp [State.received, State.latchNibble_eq, rxTransfer, rxCompletes]
    rw [h, ih, h1]
    simp [rxAfter, rxDelivered]

/-- A receiver in step is delivered every transfer and stays in step. -/
theorem rxAfter_hi (ts : List Transfer) : rxAfter ts .hi = .hi ∧ rxDelivered ts .hi = ts := by
  induction ts with
  | nil => exact ⟨rfl, rfl⟩
  | cons t ts ih =>
    obtain ⟨m, v⟩ := t
    have hv : v.extractLsb' 4 4 ++ v.extractLsb' 0 4 = v := by revert v; decide
    simp [rxAfter, rxDelivered, rxTransfer, rxCompletes, rxTake, rxGives, ih, hv]

/-! ## WriteNibble and SendByte -/

/-- The state after a WriteNibble of nibble `n` that no write fails. -/
def State.strobed (n : Nibble) (m : Mode) (s : State) : State :=
  { s.latchNibble n m with
    latch := nibbleLines s.cfg n m ||| backlightBit s.cfg s.w.backlightOn
    trace := s.trace ++ nibbleEvents s.cfg s.w.backlightOn (nibbleLines s.cfg n m)
    pc := s.pc + 4, k := s.k + 2, bus := s.bus.drop 2, draws := s.draws + 2 }

theorem writeNibble_run {s : State} (v : Value) (half : Half) (m : Mode) (h : s.busOk 2) :
    s.runMicros (writeNibble v half m) = .going (s.strobed (halfNibble half (v.eval s.w)) m) := by
  rw [State.runMicros_ok (by simpa [writeNibble, Micro.isWrite] using h)]
  simp only [writeNibble, List.foldl_cons, List.foldl_nil, State.okMicro_high]
  rw [show ∀ t : State, t.okMicro (.sleep .edge) = (t.sleep .edge).nextPc from fun _ => rfl,
    show ∀ t : State, t.okMicro (.sleep .edge) = (t.sleep .edge).nextPc from fun _ => rfl,
    State.okMicro_low _ v half m (by simp [State.wroteQuietly, high_en])]
  have e (a : Byte) : a ||| enMask s.cfg ||| backlightBit s.cfg s.w.backlightOn = a ||| backlightBit s.cfg s.w.backlightOn ||| enMask s.cfg := by
    rw [BitVec.or_assoc, BitVec.or_assoc, BitVec.or_comm (enMask s.cfg)]
  congr 1
  simp only [State.wroteQuietly, State.strobed, nibbleEvents, State.sleep, State.nextPc, State.emit,
    Delay.micros, e, State.latchNibble_eq]
  simp [Nat.add_assoc, backlightBit, ← List.drop_one]

@[simp] theorem State.strobed_cfg (s : State) (n : Nibble) (m : Mode) : (s.strobed n m).cfg = s.cfg := by
  simp [State.strobed]

@[simp] theorem State.strobed_w (s : State) (n : Nibble) (m : Mode) : (s.strobed n m).w = s.w := by
  simp [State.strobed]

/-- The state after a SendByte of transfer `t` that no write fails. -/
def State.sent (t : Transfer) (s : State) : State :=
  (s.strobed (t.byte.extractLsb' 4 4) t.rs).strobed (t.byte.extractLsb' 0 4) t.rs

theorem sendByte_run {s : State} (v : Value) (m : Mode) (h : s.busOk 4) :
    s.runMicros (sendByte v m) = .going (s.sent { rs := m, byte := v.eval s.w }) := by
  rw [sendByte, State.runMicros_append, writeNibble_run v .high m (State.busOk_mono h (by omega))]
  have h2 : (s.strobed (halfNibble .high (v.eval s.w)) m).busOk 2 :=
    State.busOk_drop (m := 2) rfl rfl h
  show State.runMicros _ (writeNibble v .low m) = _
  rw [writeNibble_run v .low m h2, State.strobed_w]
  rfl

/-- SendByte, field by field (40_transport.md R145). -/
theorem State.sent_eq (t : Transfer) (s : State) :
    s.sent t = { s.received [t] with
      latch := lowNibbleByte s.cfg t.byte t.rs ||| backlightBit s.cfg s.w.backlightOn
      trace := s.trace ++ transferEvents s.cfg s.w.backlightOn t
      pc := s.pc + 8, k := s.k + 4, bus := s.bus.drop 4, draws := s.draws + 4 } := by
  obtain ⟨m, v⟩ := t
  simp only [State.sent, State.received, List.foldl_cons, List.foldl_nil, highNibbleByte_eq, lowNibbleByte_eq,
    State.strobed, transferEvents, nibbleEvents, backlightBit]
  generalize v.extractLsb' 4 4 = a
  generalize v.extractLsb' 0 4 = b
  simp [State.latchNibble_eq, Nat.add_assoc]

/-- A receiver in step takes every transfer and is in step again (40_transport.md R145). -/
theorem State.received_hi {s : State} (ts : List Transfer) (h : s.rx = .hi) :
    s.received ts = { s with xfers := s.xfers ++ ts } := by
  obtain ⟨h1, h2⟩ := rxAfter_hi ts
  rw [State.received_eq, h, h1, h2, ← h]

/-- An UNKNOWN receiver takes nothing (20_memory.md R70). -/
theorem State.received_unknown {s : State} (ts : List Transfer) (h : s.rx = .unknown) : s.received ts = s := by
  induction ts with
  | nil => rfl
  | cons t ts ih =>
    unfold State.received at *
    simp only [List.foldl_cons, State.latchNibble, h]
    exact ih

end Sys2Proof.Machine
end

