-- ==== Sys2Proof/Laws/Frame.lean ====
section
/-! SUPPORT. What a run of micro-steps keeps, what it counts, where it can end, and how a request's and a
transport row's next state comes about; running the core step by step. -/

namespace Sys2Proof.Machine

/-! ## What micro-steps keep -/

/-- What every micro-step keeps, whatever the bus answers: the configuration, the port, the marks and OP;
the records grow; SYNCED is not set; one answer is taken per write. -/
structure Keeps (s t : State) : Prop where
  cfg : t.cfg = s.cfg
  port : t.port = s.port
  xport : t.xport = s.xport
  refused : t.refused = s.refused
  fBeforeInit : t.fBeforeInit = s.fBeforeInit
  initDone : t.initDone = s.initDone
  op : t.op = s.op
  synced : t.synced = true → s.synced = true
  xfers : s.xfers <+: t.xfers
  trace : s.trace <+: t.trace
  bus : ∃ n, t.bus = s.bus.drop n ∧ t.draws = s.draws + n ∧
    t.trace.countP Event.isWr = s.trace.countP Event.isWr + n

theorem Keeps.refl (s : State) : Keeps s s :=
  ⟨rfl, rfl, rfl, rfl, rfl, rfl, rfl, id, List.prefix_refl _, List.prefix_refl _, 0, by simp, rfl, rfl⟩

theorem Keeps.trans {s t u : State} (h : Keeps s t) (g : Keeps t u) : Keeps s u := by
  obtain ⟨n, n1, n2, n3⟩ := h.bus
  obtain ⟨m, m1, m2, m3⟩ := g.bus
  exact ⟨g.cfg.trans h.cfg, g.port.trans h.port, g.xport.trans h.xport, g.refused.trans h.refused,
    g.fBeforeInit.trans h.fBeforeInit, g.initDone.trans h.initDone, g.op.trans h.op,
    fun x => h.synced (g.synced x), h.xfers.trans g.xfers, h.trace.trans g.trace,
    n + m, by rw [m1, n1, List.drop_drop], by omega, by omega⟩

/-- A byte that lands delivers no transfer or one more (20_memory.md R70). -/
theorem State.land_xfers_prefix (s : State) (b : Byte) : s.xfers <+: (s.land b).xfers := by
  simp only [State.land, State.receive]
  split
  · simp
  · split
    · rw [State.latchNibble_eq]; simp
    · simp

theorem State.micro_keeps (s : State) (m : Micro) : Keeps s (s.micro m).state := by
  cases m with
  | write x =>
    simp only [State.micro, State.expanderWrite]
    generalize x.byte s.cfg s.w ||| backlightBit s.cfg s.w.backlightOn = b
    have hx := ((s.emit (.wr s.cfg.addr b)).takeAnswer).land_xfers_prefix b
    rcases s.memWrite_cases b with ⟨_, h⟩ | ⟨_, h⟩ | ⟨_, h⟩ <;> rw [h] <;>
      refine ⟨by simp [Progress.state, State.wrote], by simp [Progress.state, State.wrote],
        by simp [Progress.state, State.wrote], by simp [Progress.state, State.wrote],
        by simp [Progress.state, State.wrote], by simp [Progress.state, State.wrote],
        by simp [Progress.state, State.wrote], by simp [Progress.state, State.wrote], ?_,
        by simp [Progress.state, State.wrote],
        1, by simp [Progress.state, State.wrote], by simp [Progress.state, State.wrote],
        by simp [Progress.state, State.wrote, List.countP_cons, Event.isWr]⟩
    · exact hx
    · exact List.prefix_refl _
    · exact hx
  | sleep d =>
    exact ⟨rfl, rfl, rfl, rfl, rfl, rfl, rfl, id, List.prefix_refl _, List.prefix_append _ _,
      0, by simp [State.micro, Progress.state], rfl, by simp [State.micro, Progress.state, Event.isWr]⟩
  | sleepReady d =>
    exact ⟨rfl, rfl, rfl, rfl, rfl, rfl, rfl, id, List.prefix_refl _, List.prefix_append _ _,
      0, by simp [State.micro, Progress.state], rfl, by simp [State.micro, Progress.state, Event.isWr]⟩
  | assign l =>
    simp only [State.micro, Progress.state, State.assign]
    cases s.cfg.policy <;>
      exact ⟨rfl, rfl, rfl, rfl, rfl, rfl, rfl, id, List.prefix_refl _, List.prefix_refl _, 0, by simp, rfl, rfl⟩

theorem State.runMicros_keeps (s : State) (l : List Micro) : Keeps s (s.runMicros l).state := by
  induction l generalizing s with
  | nil => exact Keeps.refl s
  | cons m l ih =>
    have hm := s.micro_keeps m
    rw [State.runMicros_cons]
    cases h : s.micro m with
    | going t => rw [h] at hm; exact hm.trans (ih t)
    | aborted t => rw [h] at hm; exact hm

/-! ## What a run that goes on has done -/

/-- A run that no write ends: PC and the writes are counted, the request stays the same, no response. -/
structure Goes (s t : State) (l : List Micro) : Prop where
  active : t.active = s.active
  status : t.status = s.status
  pc : t.pc = s.pc + l.length
  k : t.k = s.k + writeCount l
  bus : t.bus = s.bus.drop (writeCount l)
  draws : t.draws = s.draws + writeCount l
  synced : t.synced = s.synced
  shConfirmed : s.cfg.policy = .confirmed → t.sh = s.sh
  events : ∃ ev, t.trace = s.trace ++ ev ∧ ∀ e ∈ ev, e.isResp = false

/-- A micro-step that goes on is `okMicro`, and the bus answered its write ok. -/
theorem State.micro_going {s t : State} {m : Micro} (h : s.micro m = .going t) :
    t = s.okMicro m ∧ (m.isWrite = true → s.answerAt 0 = .ok) := by
  by_cases hm : m.isWrite = true → s.answerAt 0 = .ok
  · rw [State.micro_ok hm] at h
    injection h with h
    exact ⟨h.symm, hm⟩
  · exfalso
    obtain ⟨hw, ha⟩ := Classical.not_imp.mp hm
    cases m with
    | write x => rcases State.micro_fail (x := x) ha with ⟨_, h1⟩ | ⟨_, h1⟩ <;> rw [h1] at h <;> cases h
    | _ => simp [Micro.isWrite] at hw

theorem State.okMicro_goes (s : State) (m : Micro) : Goes s (s.okMicro m) [m] := by
  cases m with
  | write x =>
    exact ⟨by simp [State.okMicro, State.wrote], by simp [State.okMicro, State.wrote],
      by simp [State.okMicro, State.wrote], by simp [State.okMicro, State.wrote, Micro.isWrite],
      by simp [State.okMicro, State.wrote, Micro.isWrite], by simp [State.okMicro, State.wrote, Micro.isWrite],
      by simp [State.okMicro, State.wrote], by simp [State.okMicro, State.wrote],
      [.wr s.cfg.addr (x.byte s.cfg s.w ||| backlightBit s.cfg s.w.backlightOn)], by simp [State.okMicro, State.wrote],
      by simp [Event.isResp]⟩
  | sleep d =>
    exact ⟨rfl, rfl, rfl, rfl, by simp [State.okMicro, Micro.isWrite], rfl, rfl, fun _ => rfl,
      [.dly (d.micros s.cfg)], rfl, by simp [Event.isResp]⟩
  | sleepReady d =>
    exact ⟨rfl, rfl, rfl, rfl, by simp [State.okMicro, Micro.isWrite], rfl, rfl, fun _ => rfl,
      [.dly (d.micros s.cfg)], rfl, by simp [Event.isResp]⟩
  | assign l =>
    refine ⟨by simp [State.okMicro], by simp [State.okMicro], by simp [State.okMicro],
      by simp [State.okMicro, Micro.isWrite], by simp [State.okMicro, Micro.isWrite],
      by simp [State.okMicro, Micro.isWrite], by simp [State.okMicro], ?_, [], by simp [State.okMicro], by simp⟩
    intro hp
    simp [State.okMicro, State.assign, hp]

/-- A run that goes on: its counts, and every write was answered ok. -/
theorem State.runMicros_going {s t : State} {l : List Micro} (h : s.runMicros l = .going t) :
    Goes s t l ∧ s.busOk (writeCount l) := by
  induction l generalizing s with
  | nil =>
    injection h with h
    subst h
    exact ⟨⟨rfl, rfl, rfl, rfl, by simp, rfl, rfl, fun _ => rfl, [], by simp, by simp⟩,
      fun j hj => absurd hj (by simp)⟩
  | cons m l ih =>
    rw [State.runMicros_cons] at h
    cases hm : s.micro m with
    | aborted u => rw [hm] at h; cases h
    | going u =>
      rw [hm] at h
      obtain ⟨rfl, hw⟩ := State.micro_going hm
      obtain ⟨g', hw'⟩ := ih h
      have g := s.okMicro_goes m
      have hc : (s.okMicro m).cfg = s.cfg := by
        have := (s.micro_keeps m).cfg
        rw [hm] at this
        exact this
      obtain ⟨e1, h1, h1'⟩ := g.events
      obtain ⟨e2, h2, h2'⟩ := g'.events
      have gb := g.bus
      have gd := g.draws
      have gk := g.k
      simp only [writeCount_cons, writeCount_nil, Nat.zero_add] at gb gd gk
      refine ⟨⟨g'.active.trans g.active, g'.status.trans g.status, by rw [g'.pc, g.pc, List.length_cons, List.length_cons, List.length_nil]; omega,
        by rw [g'.k, gk, writeCount_cons]; omega,
        by rw [g'.bus, gb, List.drop_drop, writeCount_cons, Nat.add_comm],
        by rw [g'.draws, gd, writeCount_cons]; omega, g'.synced.trans g.synced,
        fun hp => (g'.shConfirmed (by rw [hc, hp])).trans (g.shConfirmed hp), e1 ++ e2,
        by rw [h2, h1, List.append_assoc], ?_⟩, ?_⟩
      · intro e he
        rcases List.mem_append.mp he with h | h
        · exact h1' e h
        · exact h2' e h
      · intro j hj
        rw [writeCount_cons] at hj
        by_cases hb : m.isWrite = true
        · simp only [hb, if_true] at hj gb gd
          cases j with
          | zero => exact hw hb
          | succ j =>
            have := hw' j (by omega)
            rw [State.answerAt_drop gb gd] at this
            rwa [Nat.add_comm]
        · simp [hb] at hj gb gd
          rw [← State.answerAt_congr gb gd]
          exact hw' j hj

/-- A run ends early only at a write that the bus fails; the micro-steps before it went on. -/
theorem State.runMicros_aborted {s t : State} {l : List Micro} (h : s.runMicros l = .aborted t) :
    ∃ before x rest u, l = before ++ .write x :: rest ∧ s.runMicros before = .going u ∧
      u.answerAt 0 ≠ .ok ∧ u.micro (.write x) = .aborted t := by
  induction l generalizing s with
  | nil => cases h
  | cons m l ih =>
    rw [State.runMicros_cons] at h
    cases hm : s.micro m with
    | aborted u =>
      rw [hm] at h
      obtain rfl : u = t := by injection h
      cases m with
      | write x =>
        refine ⟨[], x, l, s, rfl, rfl, ?_, hm⟩
        intro h0
        rw [State.micro_ok (fun _ => h0)] at hm
        cases hm
      | _ => rw [State.micro_ok (by simp [Micro.isWrite])] at hm; cases hm
    | going u =>
      rw [hm] at h
      obtain ⟨before, x, rest, v, h1, h2, h3, h4⟩ := ih h
      exact ⟨m :: before, x, rest, v, by rw [h1]; rfl, by rw [State.runMicros_cons, hm]; exact h2, h3, h4⟩

/-- Two states that differ in the bus's answers alone. -/
def SameButBus (s t : State) : Prop := ∃ b d, t = { s with bus := b, draws := d }

theorem State.okMicro_sameButBus {s t : State} (m : Micro) (h : SameButBus s t) :
    SameButBus (s.okMicro m) (t.okMicro m) := by
  obtain ⟨b, d, rfl⟩ := h
  cases m with
  | write x =>
    refine ⟨b.tail, d + 1, ?_⟩
    simp only [State.okMicro, State.wrote, State.land, State.receive, State.latchNibble_eq, State.emit,
      State.takeAnswer, State.nextPc]
    split <;> try split
    all_goals rfl
  | sleep e => exact ⟨b, d, rfl⟩
  | sleepReady e => exact ⟨b, d, rfl⟩
  | assign l =>
    refine ⟨b, d, ?_⟩
    simp only [State.okMicro, State.assign, State.nextPc]
    cases s.cfg.policy <;> rfl

/-- A run that goes on goes on in the same way with any other answers that are ok. -/
theorem State.runMicros_sameButBus {s t u : State} {l : List Micro} (h : SameButBus s t)
    (hu : s.runMicros l = .going u) (ht : t.busOk (writeCount l)) :
    ∃ v, t.runMicros l = .going v ∧ SameButBus u v := by
  induction l generalizing s t with
  | nil =>
    injection hu with hu
    subst hu
    exact ⟨t, rfl, h⟩
  | cons m l ih =>
    rw [State.runMicros_cons] at hu
    cases hm : s.micro m with
    | aborted _ => rw [hm] at hu; cases hu
    | going s1 =>
      rw [hm] at hu
      obtain ⟨rfl, -⟩ := State.micro_going hm
      rw [writeCount_cons] at ht
      obtain ⟨b1, b2⟩ := t.okMicro_bus m
      obtain ⟨v, e1, e2⟩ := ih (State.okMicro_sameButBus m h) hu
        (State.busOk_drop b1 b2 (by rwa [Nat.add_comm]))
      refine ⟨v, ?_, e2⟩
      rw [State.runMicros_cons, State.micro_ok (fun hw => ht 0 (by simp [hw]))]
      exact e1

/-! ## Requests and transport rows -/

/-- Everything a request can do: be held by a busy port, complete, or end at a failed write. -/
theorem exec_request_cases {i : Instr} {s t : State} (hr : i.isRequest = true) (h : exec i s = .next t) :
    (s.busy = true ∧ t = s) ∨
    (s.busy = false ∧ ∃ u, (s.accept i).runMicros (program s.cfg i) = .going u ∧ t = u.complete) ∨
    (s.busy = false ∧ (s.accept i).runMicros (program s.cfg i) = .aborted t) := by
  rw [exec_request s hr] at h
  cases hb : s.busy with
  | true =>
    rw [performRequest_busy hb] at h
    injection h with h
    exact .inl ⟨rfl, h.symm⟩
  | false =>
    rw [performRequest_idle hb] at h
    injection h with h
    right
    cases hp : (s.accept i).runMicros (program s.cfg i) with
    | going u => rw [hp] at h; exact .inl ⟨rfl, u, rfl, h.symm⟩
    | aborted u => rw [hp] at h; exact .inr ⟨rfl, congrArg _ h⟩

/-- Everything a transport row can do. -/
theorem exec_transport_cases {i : Instr} {s t : State} (hr : i.isRequest = false) (h : exec i s = .next t) :
    t = (s.beginTransport.runMicros (program s.cfg i)).state := by
  rw [exec_transport s hr, performTransport] at h
  injection h with h
  exact h.symm

/-- Acceptance of a request other than INIT (10_state.md R36, 60_exceptions.md R243). -/
theorem State.accept_of_ne_init (s : State) {i : Instr} (h : i ≠ .init) :
    s.accept i = { s with active := some i, op := requestOpcode i, pc := 0, k := 0, w := s.sh,
                          fBeforeInit := s.fBeforeInit || !s.initDone } := by
  simp [State.accept, h]

/-! ## The core, step by step -/

theorem core_run_next {s t : State} (h : step s = .next t) (n : Nat) :
    core.run (n + 1) s = core.run n t := by
  have h : core.step s = .next t := h
  simp only [Host.Core.run, h]

/-- While a request is in progress a step is the sequencer's move. -/
theorem step_active {s : State} {i : Instr} (h : s.active = some i) : step s = .next s.advance := by
  have hb : s.busy = true := by simp [State.busy, h]
  simp [step, hb]

/-! ## Longer lists -/

/-- A run of delays. -/
theorem State.runMicros_sleeps (s : State) (l : List Delay) :
    s.runMicros (l.map .sleep) =
      .going { s with trace := s.trace ++ l.map (fun d => .dly (d.micros s.cfg)), pc := s.pc + l.length } := by
  induction l generalizing s with
  | nil => simp
  | cons d l ih =>
    rw [List.map_cons, State.runMicros_cons, State.micro_ok (by simp [Micro.isWrite])]
    show State.runMicros _ _ = _
    rw [ih]
    simp [State.okMicro, State.sleep, State.nextPc, State.emit]
    omega

/-- A run of bytes sent in one mode: the transfers, in order. -/
theorem State.runMicros_sends (m : Mode) (l : List Byte) {s : State} (h : s.busOk (4 * l.length)) :
    s.runMicros (l.flatMap (fun r => sendByte (.lit r) m)) =
      .going
        { s.received (l.map fun r => { rs := m, byte := r }) with
          latch := (l.getLast?.map (fun r => lowNibbleByte s.cfg r m ||| backlightBit s.cfg s.w.backlightOn)).getD s.latch
          trace := s.trace ++ l.flatMap (fun r => transferEvents s.cfg s.w.backlightOn { rs := m, byte := r })
          pc := s.pc + 8 * l.length, k := s.k + 4 * l.length
          bus := s.bus.drop (4 * l.length), draws := s.draws + 4 * l.length } := by
  induction l generalizing s with
  | nil => simp [State.received]
  | cons r l ih =>
    rw [List.flatMap_cons, State.runMicros_append, sendByte_run (.lit r) m (State.busOk_mono h (by rw [List.length_cons]; omega))]
    show State.runMicros _ _ = _
    have hs : (s.sent { rs := m, byte := (Value.lit r).eval s.w }).busOk (4 * l.length) :=
      State.busOk_drop (s := s) (m := 4) (by rw [State.sent_eq]) (by rw [State.sent_eq])
        (State.busOk_mono h (by rw [List.length_cons]; omega))
    rw [ih hs]
    congr 1
    simp only [State.sent_eq, State.received_eq, List.map_cons, rxAfter, rxDelivered, Value.eval]
    simp [Nat.mul_add]
    refine ⟨by omega, by omega, ?_, by omega⟩
    cases l with
    | nil => simp
    | cons x xs => cases hx : (x :: xs).getLast? <;> simp_all [List.getLast?_cons_cons]

end Sys2Proof.Machine
end

