-- ==== Sys2Proof/Laws/Init.lean ====
section
/-! SUPPORT. INIT's two parts, each run on a bus that completes its writes: the bring-up to the 4-bit
interface (41_init.md R161 to R166) and the programming of the controller (R167 to R169). Both are chained
from one lemma per kind of piece over a state written as an update of the first one. -/

namespace Sys2Proof.Machine

/-- Run the first list, then the second. -/
theorem State.runMicros_chain {s u : State} {l r : List Micro} {p : Progress} (h : s.runMicros l = .going u)
    (k : u.runMicros r = p) : s.runMicros (l ++ r) = p := by
  rw [State.runMicros_append, h]
  exact k

/-- Where a run of INIT's pieces stands: `s` but for the fields INIT's micro-steps change, `n` writes on. -/
def State.initAt (s : State) (n : Nat) (w sh : Shadow) (pc k : Nat) (p : Byte) (r : Rx) (x : List Transfer)
    (tr : List Event) : State :=
  { s with
    w := w, sh := sh, pc := pc, k := k, latch := p, rx := r, xfers := x, trace := tr
    bus := s.bus.drop n, draws := s.draws + n }

section
variable {s : State} {n pc k : Nat} {w sh : Shadow} {p : Byte} {r : Rx} {x : List Transfer} {tr : List Event}

theorem State.initAt_self (s : State) :
    s.initAt 0 s.w s.sh s.pc s.k s.latch s.rx s.xfers s.trace = s := by
  simp [State.initAt]

theorem State.initAt_busOk {m : Nat} (h : s.busOk (n + m)) :
    (s.initAt n w sh pc k p r x tr).busOk m :=
  State.busOk_drop (s := s) (m := n) rfl rfl h

theorem State.initAt_sleep (d : Delay) :
    (s.initAt n w sh pc k p r x tr).runMicros [.sleep d] =
      .going (s.initAt n w sh (pc + 1) k p r x (tr ++ [.dly (d.micros s.cfg)])) := rfl

theorem State.initAt_assign (l : List (Field × Bool)) :
    (s.initAt n w sh pc k p r x tr).runMicros [.assign l] =
      .going (s.initAt n (w.assign l)
        (match s.cfg.policy with
          | .optimistic => sh.assign l
          | .confirmed => sh) (pc + 1) k p r x tr) := by
  simp only [State.runMicros_cons, State.micro, State.assign, State.initAt]
  cases s.cfg.policy <;> simp [State.nextPc]

/-- An initialization nibble while the receiver is UNKNOWN. -/
theorem State.initAt_nibble (v : Byte) (h : s.busOk (n + 2)) :
    (s.initAt n w sh pc k p .unknown x tr).runMicros (writeNibble (.lit v) .high .command) =
      .going (s.initAt (n + 2) w sh (pc + 4) (k + 2)
        (nibbleLines s.cfg (halfNibble .high v) .command ||| backlightBit s.cfg w.backlightOn) .unknown x
        (tr ++ nibbleEvents s.cfg w.backlightOn (nibbleLines s.cfg (halfNibble .high v) .command))) := by
  rw [writeNibble_run _ _ _ (State.initAt_busOk h)]
  simp [State.strobed, State.initAt, State.latchNibble, Value.eval, Nat.add_assoc]

/-- State 5: the nibble 0x2, after whose last settle the receiver is ready (R165, R166). -/
theorem State.initAt_switch (h : s.busOk (n + 2)) :
    (s.initAt n w sh pc k p .unknown x tr).runMicros switchTo4bit =
      .going (s.initAt (n + 2) w sh (pc + 4) (k + 2)
        (nibbleLines s.cfg (halfNibble .high 0x20) .command ||| backlightBit s.cfg w.backlightOn) .hi x
        (tr ++ nibbleEvents s.cfg w.backlightOn (nibbleLines s.cfg (halfNibble .high 0x20) .command))) := by
  have hn := State.initAt_nibble (w := w) (sh := sh) (pc := pc) (k := k) (p := p) (x := x) (tr := tr) 0x20 h
  revert hn
  simp only [writeNibble, switchTo4bit, State.runMicros_cons, State.runMicros_nil]
  generalize s.initAt n w sh pc k p .unknown x tr = a
  cases a.micro (.write (.nibble (.lit 0x20) .high .command true)) with
  | aborted b => simp
  | going b =>
    simp only []
    cases b.micro (.sleep .edge) with
    | aborted b => simp
    | going b =>
      simp only []
      cases b.micro (.write (.nibble (.lit 0x20) .high .command false)) with
      | aborted b => simp
      | going b =>
        intro h
        injection h with h
        simp only [State.micro]
        rw [h]
        rfl

/-- A byte sent to a receiver in step. -/
theorem State.initAt_send (v : Value) (m : Mode) (h : s.busOk (n + 4)) :
    (s.initAt n w sh pc k p .hi x tr).runMicros (sendByte v m) =
      .going (s.initAt (n + 4) w sh (pc + 8) (k + 4)
        (lowNibbleByte s.cfg (v.eval w) m ||| backlightBit s.cfg w.backlightOn) .hi (x ++ [{ rs := m, byte := v.eval w }])
        (tr ++ transferEvents s.cfg w.backlightOn { rs := m, byte := v.eval w })) := by
  rw [sendByte_run _ _ (State.initAt_busOk h), State.sent_eq, State.received_hi _ rfl]
  simp [State.initAt, Nat.add_assoc]

/-- The write of 0x00 with the enable line low (R169). -/
theorem State.initAt_zero (h : s.busOk (n + 1)) (hl : lineHigh p (enMask s.cfg) = false) :
    (s.initAt n w sh pc k p r x tr).runMicros [.write .zero] =
      .going (s.initAt (n + 1) w sh (pc + 1) (k + 1) (backlightBit s.cfg w.backlightOn) r x
        (tr ++ [.wr s.cfg.addr (backlightBit s.cfg w.backlightOn)])) := by
  rw [State.runMicros_ok (by simpa [Micro.isWrite] using State.initAt_busOk h)]
  simp only [List.foldl_cons, List.foldl_nil]
  rw [State.okMicro_zero _ (fun _ => hl)]
  simp [State.wroteQuietly, State.initAt, Nat.add_assoc]

end

/-- Micro-steps 0 to 19 (R161 to R166). -/
theorem State.bringUp_run {s : State} (h : s.busOk 8) (hr : s.rx = .unknown) :
    let nib (v : Byte) := nibbleEvents s.cfg s.w.backlightOn v
    s.runMicros bringUpSteps = .going (s.initAt 8 s.w s.sh (s.pc + 20) (s.k + 8) (dataBits s.cfg 0x2 ||| backlightBit s.cfg s.w.backlightOn)
      .hi s.xfers (s.trace ++ [.dly s.cfg.tPower] ++ nib (dataBits s.cfg 0x3) ++ [.dly s.cfg.tInit1] ++ nib (dataBits s.cfg 0x3) ++
        [.dly s.cfg.tInit2] ++ nib (dataBits s.cfg 0x3) ++ [.dly s.cfg.tInit3] ++ nib (dataBits s.cfg 0x2))) := by
  intro nib
  have m {n : Nat} (hn : n ≤ 8) : s.busOk n := State.busOk_mono h hn
  have e := s.initAt_self
  rw [hr] at e
  have h3 : nibbleLines s.cfg (halfNibble .high 0x30) .command = dataBits s.cfg 0x3 := BitVec.or_zero
  have h2 : nibbleLines s.cfg (halfNibble .high 0x20) .command = dataBits s.cfg 0x2 := BitVec.or_zero
  refine (congrArg (fun u => State.runMicros u _) e.symm).trans ?_
  simp only [bringUpSteps, force8bit, nibInit8bitSteps, List.append_assoc]
  refine State.runMicros_chain (State.initAt_sleep _) ?_
  refine State.runMicros_chain (State.initAt_nibble (n := 0) _ (m (by omega))) ?_
  refine State.runMicros_chain (State.initAt_sleep _) ?_
  refine State.runMicros_chain (State.initAt_nibble (n := 2) _ (m (by omega))) ?_
  refine State.runMicros_chain (State.initAt_sleep _) ?_
  refine State.runMicros_chain (State.initAt_nibble (n := 4) _ (m (by omega))) ?_
  refine State.runMicros_chain (State.initAt_sleep _) ?_
  refine (State.initAt_switch (n := 6) (m (by omega))).trans ?_
  simp only [h2, h3, Delay.micros, List.append_assoc, Nat.add_assoc, nib]

/-- Micro-steps 20 to 56 (R167 to R169). -/
theorem State.programSteps_run {s : State} (h : s.busOk 17) (hr : s.rx = .hi) :
    let sent (v : Byte) := transferEvents s.cfg s.w.backlightOn { rs := .command, byte := v }
    s.runMicros (programSteps s.cfg) = .going (s.initAt 17 initShadow
      (match s.cfg.policy with
        | .optimistic => initShadow
        | .confirmed => s.sh) (s.pc + 37) (s.k + 17) (blMask s.cfg) .hi
      (s.xfers ++ [{ rs := .command, byte := functionSetByte s.cfg }, { rs := .command, byte := 0x0C },
        { rs := .command, byte := 0x06 }, { rs := .command, byte := 0x01 }])
      (s.trace ++ sent (functionSetByte s.cfg) ++ sent 0x0C ++ sent 0x06 ++ sent 0x01 ++
        [.dly s.cfg.tSlow] ++ [.wr s.cfg.addr (blMask s.cfg)])) := by
  intro sent
  have m {n : Nat} (hn : n ≤ 17) : s.busOk n := State.busOk_mono h hn
  have e := s.initAt_self
  rw [hr] at e
  refine (congrArg (fun u => State.runMicros u _) e.symm).trans ?_
  simp only [programSteps, List.append_assoc]
  refine State.runMicros_chain (State.initAt_send (n := 0) _ _ (m (by omega))) ?_
  refine State.runMicros_chain (State.initAt_assign _) ?_
  refine State.runMicros_chain (State.initAt_send (n := 4) _ _ (m (by omega))) ?_
  refine State.runMicros_chain (State.initAt_assign _) ?_
  refine State.runMicros_chain (State.initAt_send (n := 8) _ _ (m (by omega))) ?_
  refine State.runMicros_chain (State.initAt_send (n := 12) _ _ (m (by omega))) ?_
  refine State.runMicros_chain (State.initAt_sleep _) ?_
  refine State.runMicros_chain (l := [_]) (State.initAt_assign _) ?_
  refine (State.initAt_zero (n := 16) h (by rw [lowNibbleByte_eq]; exact low_en s.cfg _ _ _)).trans ?_
  cases hp : s.cfg.policy <;>
    simp [State.initAt, sent, Delay.micros, Nat.add_assoc, Value.eval, Shadow.assign, Shadow.set,
      displayControlByte, entryModeByte, bit, backlightBit, initShadow]

end Sys2Proof.Machine
end

