-- ==== Sys2Proof/Laws/PerInstr.lean ====
section
/-! SUPPORT. Statements for every instruction, one lemma per constructor. Family CodeShape: what the code of
an instruction looks like (30_encoding.md R104, R105, R109, R112, R114). -/

namespace Sys2Proof.Laws.CodeShape

/-- A request's code is a first word whose low byte is its opcode, with the payload words that opcode has;
any other row's code is a transport word. -/
def Statement (i : Instr) : Prop :=
  match encode i with
  | .request q payload =>
    i.isRequest = true ∧ opcodeOf q = requestOpcode i ∧ payload.length = payloadLength q
  | .transport _ => i.isRequest = false

/-- The low byte of an operand field followed by an opcode is the opcode. -/
theorem opcodeOf_append (a : BitVec 24) (op : Byte) : opcodeOf (a ++ op) = op := by
  unfold opcodeOf
  ext j hj
  rw [BitVec.getElem_extractLsb', Nat.zero_add]
  exact (BitVec.getLsbD_append (x := a) (y := op)).trans (by simp [hj, BitVec.getLsbD_eq_getElem])

theorem init : Statement .init := ⟨rfl, by decide, by decide⟩

theorem clear : Statement .clear := ⟨rfl, by decide, by decide⟩

theorem home : Statement .home := ⟨rfl, by decide, by decide⟩

theorem putc (cp : BitVec 24) : Statement (.putc cp) := by
  refine ⟨rfl, opcodeOf_append _ _, ?_⟩
  simp [payloadLength, opcodeOf_append, requestOpcode, cgdefOpcode]

theorem setcursor (col row : BitVec 8) : Statement (.setcursor col row) := by
  refine ⟨rfl, opcodeOf_append _ _, ?_⟩
  simp [payloadLength, opcodeOf_append, requestOpcode, cgdefOpcode]

theorem displayOn : Statement .displayOn := ⟨rfl, by decide, by decide⟩

theorem displayOff : Statement .displayOff := ⟨rfl, by decide, by decide⟩

theorem cursorOn : Statement .cursorOn := ⟨rfl, by decide, by decide⟩

theorem cursorOff : Statement .cursorOff := ⟨rfl, by decide, by decide⟩

theorem blinkOn : Statement .blinkOn := ⟨rfl, by decide, by decide⟩

theorem blinkOff : Statement .blinkOff := ⟨rfl, by decide, by decide⟩

theorem backlightOn : Statement .backlightOn := ⟨rfl, by decide, by decide⟩

theorem backlightOff : Statement .backlightOff := ⟨rfl, by decide, by decide⟩

theorem cgdef (slot : BitVec 8) (glyph : List Byte) : Statement (.cgdef slot glyph) := by
  refine ⟨rfl, opcodeOf_append _ _, ?_⟩
  simp [payloadLength, opcodeOf_append, requestOpcode]

theorem scrollLeft : Statement .scrollLeft := ⟨rfl, by decide, by decide⟩

theorem scrollRight : Statement .scrollRight := ⟨rfl, by decide, by decide⟩

theorem leftToRight : Statement .leftToRight := ⟨rfl, by decide, by decide⟩

theorem rightToLeft : Statement .rightToLeft := ⟨rfl, by decide, by decide⟩

theorem shiftInc : Statement .shiftInc := ⟨rfl, by decide, by decide⟩

theorem shiftDec : Statement .shiftDec := ⟨rfl, by decide, by decide⟩

theorem cmdClearDisplay : Statement .cmdClearDisplay := rfl

theorem cmdReturnHome : Statement .cmdReturnHome := rfl

theorem cmdEntryModeSet (iBit sBit : Bool) : Statement (.cmdEntryModeSet iBit sBit) := rfl

theorem cmdDisplayControl (dBit cBit bBit : Bool) : Statement (.cmdDisplayControl dBit cBit bBit) := rfl

theorem cmdCursorDisplayShift (mBit rBit : Bool) : Statement (.cmdCursorDisplayShift mBit rBit) := rfl

theorem cmdFunctionSet (lBit nBit fBit : Bool) : Statement (.cmdFunctionSet lBit nBit fBit) := rfl

theorem cmdSetCgramAddress (a : BitVec 6) : Statement (.cmdSetCgramAddress a) := rfl

theorem cmdSetDdramAddress (a : BitVec 7) : Statement (.cmdSetDdramAddress a) := rfl

theorem nibInit8bit : Statement .nibInit8bit := rfl

theorem nibInit4bit : Statement .nibInit4bit := rfl

end Sys2Proof.Laws.CodeShape
end

