-- ==== Sys2Proof/Tests/Slice0.lean ====
section
/-! SUPPORT. Tests against the vectors of spec/95_test_vectors.md and words written out from
spec/30_encoding.md, and one witness per statement: a concrete state and operands that meet its
hypotheses. -/

namespace Sys2Proof.Tests

open Machine

/-! ## Helpers -/

/-- The shadow register 0x2C: display on, cursor off, blink off, entry left, no shift, backlight on. -/
def shadow2C : Shadow :=
  { backlightOn := true, displayOn := true, cursorOn := false, blinkOn := false
    entryLeft := true, entryShift := false }

/-- A freshly constructed block with 36 writes to be answered ok. -/
def fresh : State := { State.fresh resetCfg 0xFF with bus := List.replicate 36 .ok }

/-- S0 of 95_test_vectors.md, with the trace and the transfers so far left out. -/
def s0 : State :=
  { fresh with sh := shadow2C, w := shadow2C, initDone := true, synced := true, latch := 0x08, rx := .hi }

/-- S0 with the coming bus answers given. -/
def s0Bus (l : List BusAnswer) : State := { s0 with bus := l }

/-- S0 under the other commit policy. -/
def s0Confirmed : State := { s0 with cfg := { resetCfg with policy := .confirmed } }

/-- A block with the words of a request at its port. -/
def s0Port (l : List Word) : State := { s0 with port := l }

/-- The other choice of R102 and 92_eei_decisions.md D6: enable on bit 1, read/write on bit 2. -/
def otherEn : Lines := { exp8Lines with en := 1, rw := 2, apart := by decide }

/-- Every line elsewhere: data lines 5..2. -/
def shuffled : Lines := { d4 := 2, rs := 7, en := 0, rw := 6, bl := 1, apart := by decide }

/-- S0 on other lines, its latch with the backlight line alone. -/
def s0On (l : Lines) : State :=
  { s0 with cfg := { resetCfg with lines := l }, latch := blMask { resetCfg with lines := l } }

/-- The state an outcome answers; there is no other outcome (`exec_next`). -/
def after (o : Host.Outcome State Fault Refusal) : State :=
  match o with
  | .next s => s
  | .fault _ => State.fresh resetCfg 0
  | .refused _ => State.fresh resetCfg 0

/-- The bytes written. -/
def writes (o : Host.Outcome State Fault Refusal) : List Byte :=
  (after o).trace.filterMap (fun e => match e with
    | .wr _ b => some b
    | .dly _ => none
    | .resp _ => none)

/-- The time of the delays, in microseconds. -/
def delays (o : Host.Outcome State Fault Refusal) : Nat :=
  ((after o).trace.map (fun e => match e with
    | .wr _ _ => 0
    | .dly d => d
    | .resp _ => 0)).sum

/-- The transfers delivered, as mode bit and byte. -/
def delivered (o : Host.Outcome State Fault Refusal) : List (Nat × Byte) :=
  (after o).xfers.map (fun t => (match t.rs with
    | .command => 0
    | .data => 1, t.byte))

/-- The packed shadow register after. -/
def shAfter (o : Host.Outcome State Fault Refusal) : Byte := (after o).sh.packed

/-! ## WellFormed -/

theorem test_wellFormed_glyph_of_eight : (Instr.cgdef 1 [0, 0x0A, 0x1F, 0x1F, 0x0E, 4, 0, 0]).wellFormed = true := by
  decide

/-- "The glyph is exactly 8 bytes" (R107): a glyph of seven and one of nine are ill-formed. -/
theorem test_illFormed_glyph : (Instr.cgdef 1 [1, 2, 3, 4, 5, 6, 7]).wellFormed = false ∧
    (Instr.cgdef 1 [1, 2, 3, 4, 5, 6, 7, 8, 9]).wellFormed = false := by
  decide

/-! ## Decoding: every constructor from a word written out of R104 to R107, R112, R114 -/

theorem test_decode_r0 :
    decode (.request 0b00000000000000000000000000000001 []) = .ok .init ∧
    decode (.request 0b00000000000000000000000000000010 []) = .ok .clear ∧
    decode (.request 0b00000000000000000000000000000011 []) = .ok .home ∧
    decode (.request 0b00000000000000000000000000000110 []) = .ok .displayOn ∧
    decode (.request 0b00000000000000000000000000000111 []) = .ok .displayOff ∧
    decode (.request 0b00000000000000000000000000001000 []) = .ok .cursorOn ∧
    decode (.request 0b00000000000000000000000000001001 []) = .ok .cursorOff ∧
    decode (.request 0b00000000000000000000000000001010 []) = .ok .blinkOn ∧
    decode (.request 0b00000000000000000000000000001011 []) = .ok .blinkOff :=
  ⟨rfl, rfl, rfl, rfl, rfl, rfl, rfl, rfl, rfl⟩

theorem test_decode_r0_more :
    decode (.request 0b00000000000000000000000000001100 []) = .ok .backlightOn ∧
    decode (.request 0b00000000000000000000000000001101 []) = .ok .backlightOff ∧
    decode (.request 0b00000000000000000000000000001111 []) = .ok .scrollLeft ∧
    decode (.request 0b00000000000000000000000000010000 []) = .ok .scrollRight ∧
    decode (.request 0b00000000000000000000000000010001 []) = .ok .leftToRight ∧
    decode (.request 0b00000000000000000000000000010010 []) = .ok .rightToLeft ∧
    decode (.request 0b00000000000000000000000000010011 []) = .ok .shiftInc ∧
    decode (.request 0b00000000000000000000000000010100 []) = .ok .shiftDec :=
  ⟨rfl, rfl, rfl, rfl, rfl, rfl, rfl, rfl⟩

/-- The operand formats: `putc 0x4E2D`, `setcursor 3, 1`, `cgdef 9, heart` (V4.4, V3.3, V4.7). -/
theorem test_decode_operands :
    decode (.request 0b00000000010011100010110100000100 []) = .ok (.putc 0x4E2D) ∧
    decode (.request 0b00000000000000010000001100000101 []) = .ok (.setcursor 3 1) ∧
    decode (.request 0b00000000000000000000100100001110
      [0b00011111000111110000101000000000, 0b00000000000000000000010000001110]) =
      .ok (.cgdef 9 [0x00, 0x0A, 0x1F, 0x1F, 0x0E, 0x04, 0x00, 0x00]) :=
  ⟨rfl, rfl, rfl⟩

theorem test_decode_commands :
    decode (.transport (.command 0b00000001)) = .ok .cmdClearDisplay ∧
    decode (.transport (.command 0b00000010)) = .ok .cmdReturnHome ∧
    decode (.transport (.command 0b00000110)) = .ok (.cmdEntryModeSet true false) ∧
    decode (.transport (.command 0b00001110)) = .ok (.cmdDisplayControl true true false) ∧
    decode (.transport (.command 0b00011000)) = .ok (.cmdCursorDisplayShift true false) ∧
    decode (.transport (.command 0b00101000)) = .ok (.cmdFunctionSet false true false) ∧
    decode (.transport (.command 0b01001000)) = .ok (.cmdSetCgramAddress 0b001000) ∧
    decode (.transport (.command 0b11000011)) = .ok (.cmdSetDdramAddress 0b1000011) ∧
    decode (.transport (.nibble 0b0011)) = .ok .nibInit8bit ∧
    decode (.transport (.nibble 0b0010)) = .ok .nibInit4bit :=
  ⟨rfl, rfl, rfl, rfl, rfl, rfl, rfl, rfl, rfl, rfl⟩

/-- Reserved codes, by name (R106, R109, R112, R114). -/
theorem test_decode_reserved :
    decode (.request 0x00000000 []) = .error .reservedOpcode ∧
    decode (.request 0x00000015 []) = .error .reservedOpcode ∧
    decode (.request 0x000000FF []) = .error .reservedOpcode ∧
    decode (.request 0x80000002 []) = .error .mustBeZero ∧
    decode (.request 0x01000005 []) = .error .mustBeZero ∧
    decode (.request 0x0001000E [0, 0]) = .error .mustBeZero ∧
    decode (.request 0x0000000E [0]) = .error .wrongLength ∧
    decode (.transport (.command 0)) = .error .reservedCommand ∧
    decode (.transport (.nibble 0)) = .error .reservedNibble :=
  ⟨rfl, rfl, rfl, rfl, rfl, rfl, rfl, rfl, rfl⟩

/-- The opcode table's numbering: the first word is the least significant. -/
theorem test_decodeTableWord :
    decodeTableWord 32 0x00010305 = some (.setcursor 3 1) ∧
    decodeTableWord 96 0x0000040E1F1F0A000000010E =
      some (.cgdef 1 [0x00, 0x0A, 0x1F, 0x1F, 0x0E, 0x04, 0x00, 0x00]) ∧
    decodeTableWord 8 0x80 = some (.cmdSetDdramAddress 0) ∧
    decodeTableWord 8 0x3 = some .nibInit8bit ∧ decodeTableWord 4 0x2 = some .nibInit4bit := by
  decide

/-- `print "H", 0x4E2D` (R110). -/
theorem test_pseudo_expand :
    (Pseudo.print [0x48, 0x4E2D]).expand = [.putc 0x48, .putc 0x4E2D] ∧
    Pseudo.autoscrollOn.expand = [.shiftInc] ∧ Pseudo.autoscrollOff.expand = [.shiftDec] := by
  decide

/-! ## One request each, from S0 (2.2 to 2.4 of 95_test_vectors.md) -/

/-- V2.1, after construction. -/
theorem test_init : writes (exec .init fresh) =
    [0x34, 0x30, 0x34, 0x30, 0x34, 0x30, 0x24, 0x20, 0x24, 0x20, 0x84, 0x80, 0x04, 0x00, 0xC4, 0xC0,
     0x04, 0x00, 0x64, 0x60, 0x04, 0x00, 0x14, 0x10, 0x08] := by
  decide

/-- V2.1: the end of INIT. -/
theorem test_init_end : delivered (exec .init fresh) = [(0, 0x28), (0, 0x0C), (0, 0x06), (0, 0x01)] ∧
    shAfter (exec .init fresh) = 0x2C ∧ delays (exec .init fresh) = 87000 ∧
    (after (exec .init fresh)).latch = 0x08 ∧ (after (exec .init fresh)).pc = 57 := by
  decide

/-- V3.1. -/
theorem test_clear : writes (exec .clear s0) = [0x0C, 0x08, 0x1C, 0x18] ∧ delays (exec .clear s0) = 6000 ∧
    delivered (exec .clear s0) = [(0, 0x01)] := by
  decide

/-- V3.1 with bits 1 and 2 exchanged (D6), and on other lines: the transfer is delivered all the same. -/
theorem test_clear_lines : writes (exec .clear (s0On otherEn)) = [0x0A, 0x08, 0x1A, 0x18] ∧
    delivered (exec .clear (s0On otherEn)) = [(0, 0x01)] ∧
    delivered (exec .clear (s0On shuffled)) = [(0, 0x01)] := by
  decide

/-- V3.2. -/
theorem test_home : writes (exec .home s0) = [0x0C, 0x08, 0x2C, 0x28] ∧ delays (exec .home s0) = 6000 ∧
    delivered (exec .home s0) = [(0, 0x02)] := by
  decide

/-- V3.3. -/
theorem test_setcursor : writes (exec (.setcursor 3 1) s0) = [0xCC, 0xC8, 0x3C, 0x38] ∧
    delivered (exec (.setcursor 3 1) s0) = [(0, 0xC3)] := by
  decide

/-- V3.23: the row clamped, the address reduced to seven bits. -/
theorem test_setcursor_corner : writes (exec (.setcursor 0xFF 0xFF) s0) = [0xBC, 0xB8, 0xFC, 0xF8] := by
  decide

/-- V3.4. -/
theorem test_displayOn : writes (exec .displayOn s0) = [0x0C, 0x08, 0xCC, 0xC8] := by decide

/-- V3.5. -/
theorem test_displayOff : writes (exec .displayOff s0) = [0x0C, 0x08, 0x8C, 0x88] ∧
    shAfter (exec .displayOff s0) = 0x28 := by
  decide

/-- V3.6. -/
theorem test_cursorOn : writes (exec .cursorOn s0) = [0x0C, 0x08, 0xEC, 0xE8] ∧
    shAfter (exec .cursorOn s0) = 0x2E := by
  decide

/-- V3.7. -/
theorem test_cursorOff : writes (exec .cursorOff s0) = [0x0C, 0x08, 0xCC, 0xC8] ∧
    shAfter (exec .cursorOff s0) = 0x2C := by
  decide

/-- V3.8. -/
theorem test_blinkOn : writes (exec .blinkOn s0) = [0x0C, 0x08, 0xDC, 0xD8] ∧
    shAfter (exec .blinkOn s0) = 0x2D := by
  decide

/-- V3.9. -/
theorem test_blinkOff : writes (exec .blinkOff s0) = [0x0C, 0x08, 0xCC, 0xC8] := by decide

/-- V3.10. -/
theorem test_backlightOn : writes (exec .backlightOn s0) = [0x08] ∧ delays (exec .backlightOn s0) = 0 ∧
    delivered (exec .backlightOn s0) = [] := by
  decide

/-- V3.11. -/
theorem test_backlightOff : writes (exec .backlightOff s0) = [0x00] ∧
    shAfter (exec .backlightOff s0) = 0x24 := by
  decide

/-- V3.12. -/
theorem test_scrollLeft : writes (exec .scrollLeft s0) = [0x1C, 0x18, 0x8C, 0x88] := by decide

/-- V3.13. -/
theorem test_scrollRight : writes (exec .scrollRight s0) = [0x1C, 0x18, 0xCC, 0xC8] := by decide

/-- V3.14. -/
theorem test_leftToRight : writes (exec .leftToRight s0) = [0x0C, 0x08, 0x6C, 0x68] := by decide

/-- V3.15. -/
theorem test_rightToLeft : writes (exec .rightToLeft s0) = [0x0C, 0x08, 0x4C, 0x48] ∧
    shAfter (exec .rightToLeft s0) = 0x0C := by
  decide

/-- V3.16. -/
theorem test_shiftInc : writes (exec .shiftInc s0) = [0x0C, 0x08, 0x7C, 0x78] ∧
    shAfter (exec .shiftInc s0) = 0x3C := by
  decide

/-- V3.17. -/
theorem test_shiftDec : writes (exec .shiftDec s0) = [0x0C, 0x08, 0x6C, 0x68] := by decide

/-- V4.4. -/
theorem test_putc : writes (exec (.putc 0x4E2D) s0) = [0x2D, 0x29, 0xDD, 0xD9] ∧
    delivered (exec (.putc 0x4E2D) s0) = [(1, 0x2D)] := by
  decide

/-- V4.8. -/
theorem test_cgdef : delivered (exec (.cgdef 0xFF [1, 2, 3, 4, 5, 6, 7, 8]) s0) =
    [(0, 0x78), (1, 1), (1, 2), (1, 3), (1, 4), (1, 5), (1, 6), (1, 7), (1, 8)] := by
  decide

/-- V4.6: the number of writes, and the time (R291). -/
theorem test_cgdef_counts : let t := after (exec (.cgdef 1 [0x00, 0x0A, 0x1F, 0x1F, 0x0E, 0x04, 0x00, 0x00]) s0)
    t.k = 36 ∧ t.pc = 72 ∧ t.latch = 0x09 := by
  decide

/-! ## The transport rows, each by itself (V1.4, V1.12, L1.8, L1.9 and the commands of 2.3) -/

theorem test_cmdClearDisplay : writes (exec .cmdClearDisplay s0) = [0x0C, 0x08, 0x1C, 0x18] := by decide

theorem test_cmdReturnHome : writes (exec .cmdReturnHome s0) = [0x0C, 0x08, 0x2C, 0x28] := by decide

theorem test_cmdEntryModeSet : writes (exec (.cmdEntryModeSet true false) s0) = [0x0C, 0x08, 0x6C, 0x68] := by
  decide

theorem test_cmdDisplayControl :
    writes (exec (.cmdDisplayControl true false false) s0) = [0x0C, 0x08, 0xCC, 0xC8] := by
  decide

theorem test_cmdCursorDisplayShift :
    writes (exec (.cmdCursorDisplayShift true false) s0) = [0x1C, 0x18, 0x8C, 0x88] := by
  decide

theorem test_cmdFunctionSet : writes (exec (.cmdFunctionSet false true false) s0) = [0x2C, 0x28, 0x8C, 0x88] ∧
    delivered (exec (.cmdFunctionSet false true false) s0) = [(0, 0x28)] := by
  decide

theorem test_cmdSetCgramAddress : writes (exec (.cmdSetCgramAddress 8) s0) = [0x4C, 0x48, 0x8C, 0x88] := by
  decide

theorem test_cmdSetDdramAddress : writes (exec (.cmdSetDdramAddress 0x43) s0) = [0xCC, 0xC8, 0x3C, 0x38] := by
  decide

theorem test_nibInit8bit : writes (exec .nibInit8bit s0) = [0x3C, 0x38] ∧ delays (exec .nibInit8bit s0) = 2000 := by
  decide

/-- The first half of V1.4: RX = LO(0x2, 0). -/
theorem test_nibInit4bit : writes (exec .nibInit4bit s0) = [0x2C, 0x28] ∧
    (after (exec .nibInit4bit s0)).rx = .lo 0x2 .command := by
  decide

/-! ## Failures and marks (2.5 of 95_test_vectors.md) -/

/-- V5.1: the first write of DISPLAY_OFF fails, not landed. -/
theorem test_failure : let t := after (exec .displayOff (s0Bus [.failOld]))
    t.trace = [.wr 0x27 0x0C, .resp { code := .transportFailure, op := 0x07, k := 0, byte := 0x0C }] ∧
    t.sh.packed = 0x28 ∧ t.latch = 0x08 ∧ t.synced = false ∧ t.rx = .unknown ∧ t.initDone = true := by
  decide

/-- V2.7: the second write of the 0x2 nibble fails, landed; RX <- HI is not reached. -/
theorem test_init_failure : let t := after (exec .init { fresh with bus := List.replicate 7 .ok ++ [.failLanded] })
    t.status = { code := .transportFailure, op := 0x01, k := 7, byte := 0x20 } ∧ t.sh.packed = 0x00 ∧
    t.latch = 0x20 ∧ t.rx = .unknown ∧ t.xfers = [] := by
  decide

/-- CONFIRMED: the failing request's flag is not committed (R31). -/
theorem test_failure_confirmed :
    (after (exec .displayOff { s0Confirmed with bus := [.failOld] })).sh = shadow2C := by
  decide

/-- Use before INIT is marked and performed (R243). -/
theorem test_before_init : let t := after (exec .clear fresh)
    t.fBeforeInit = true ∧ writes (exec .clear fresh) = [0x04, 0x00, 0x14, 0x10] ∧ t.xfers = [] := by
  decide

/-- A reserved word sets REFUSED, writes nothing, and the next word is still there (R106, R247). -/
theorem test_refused : let t := after (step (s0Port [0x15, 0x02]))
    t.refused = true ∧ t.trace = [] ∧ t.port = [0x02] ∧ t.status = okStatus := by
  decide

/-- A row of the table placed as the next instruction is the one that runs. -/
theorem test_withFetchWord : writes (step (s0.withFetchWord 32 0x00010305)) = [0xCC, 0xC8, 0x3C, 0x38] ∧
    writes (step (s0.withFetchWord 8 0x28)) = [0x2C, 0x28, 0x8C, 0x88] := by
  decide

/-! ## Witnesses: for each statement with hypotheses, a state and operands that meet all of them -/

/-- S0's coming writes are answered ok. -/
theorem s0_busOk {n : Nat} (h : n ≤ 36) : s0.busOk n :=
  State.busOk_mono (State.busOk_of_replicate (n := 36) (rest := []) rfl) h

/-- CGDEF, the one constructor whose well-formedness is a condition. -/
theorem witness_DecodeEncodeRoundTrip : (Instr.cgdef 0xFF [1, 2, 3, 4, 5, 6, 7, 0xFF]).WellFormed := by decide

theorem witness_RequestSpellingUnique :
    decode (.request 0x0000FF0E [0x04030201, 0xFF070605]) = .ok (.cgdef 0xFF [1, 2, 3, 4, 5, 6, 7, 0xFF]) ∧
    decode (.request 0xFFFFFF04 []) = .ok (.putc 0xFFFFFF) :=
  ⟨rfl, rfl⟩

theorem witness_ReservedRequestRefused :
    (s0Port [0x15, 0x02]).busy = false ∧ (s0Port [0x15, 0x02]).xport = none ∧
    (s0Port [0x15, 0x02]).port = 0x15 :: [] ++ [0x02] ∧
    ([] : List Word).length = (if (0x15 : Word).extractLsb' 0 8 = 0x0E then 2 else 0) ∧
    ([0, 0] : List Word).length = (if (0x1000E : Word).extractLsb' 0 8 = 0x0E then 2 else 0) :=
  ⟨rfl, rfl, rfl, rfl, rfl⟩

/-- The first clause at the edges of the opcode range and of each must-be-zero field. -/
theorem witness_ReservedRequestRefused_reserved : reservedWord 0x15 ∧ reservedWord 0x00 ∧ reservedWord 0xFF ∧
    reservedWord 0x101 ∧ reservedWord 0x01000005 ∧ reservedWord 0x1000E := by
  refine ⟨?_, ?_, ?_, ?_, ?_, ?_⟩ <;> unfold reservedWord <;> decide

/-- The second clause at the same edges. -/
theorem witness_ReservedRequestRefused_assigned : ¬ reservedWord 0x01 ∧ ¬ reservedWord 0x14 ∧
    ¬ reservedWord 0x00FFFF05 ∧ ¬ reservedWord 0xFF0E ∧ ¬ reservedWord 0xFFFFFF04 := by
  refine ⟨?_, ?_, ?_, ?_, ?_⟩ <;> unfold reservedWord <;> decide

/-- A reserved CGDEF word with its two payload words, and a word of another opcode. -/
theorem witness_RefusedWordsLeavePort :
    (s0Port [0x1000E, 0, 0, 0x02]).busy = false ∧ (s0Port [0x1000E, 0, 0, 0x02]).xport = none ∧
    (s0Port [0x1000E, 0, 0, 0x02]).port = 0x1000E :: [0, 0] ++ [0x02] ∧
    ([0, 0] : List Word).length = (if (0x1000E : Word).extractLsb' 0 8 = 0x0E then 2 else 0) ∧
    reservedWord 0x1000E :=
  ⟨rfl, rfl, rfl, rfl, witness_ReservedRequestRefused_reserved.2.2.2.2.2⟩

theorem witness_StepRunsDecodedRequest :
    (s0Port [0x0000010E, 0x1F1F0A00, 0x0000040E, 0x02]).busy = false ∧
    (s0Port [0x0000010E, 0x1F1F0A00, 0x0000040E, 0x02]).xport = none ∧
    (s0Port [0x0000010E, 0x1F1F0A00, 0x0000040E, 0x02]).port =
      0x0000010E :: [0x1F1F0A00, 0x0000040E] ++ [0x02] ∧
    decode (.request 0x0000010E [0x1F1F0A00, 0x0000040E]) =
      .ok (.cgdef 1 [0x00, 0x0A, 0x1F, 0x1F, 0x0E, 0x04, 0x00, 0x00]) :=
  ⟨rfl, rfl, rfl, rfl⟩

theorem witness_StepRunsDecodedTransportWord :
    (s0.withCode (.transport (.command 0x28))).busy = false ∧
    (s0.withCode (.transport (.command 0x28))).xport = some (.command 0x28) ∧
    decode (.transport (.command 0x28)) = .ok (.cmdFunctionSet false true false) :=
  ⟨rfl, rfl, rfl⟩

/-- Both ways of having no whole request at the port. -/
theorem witness_IdleBlockWaits :
    s0.busy = false ∧ s0.xport = none ∧ s0.port = [] ∧
    (s0Port [0x0E, 0x00]).busy = false ∧ (s0Port [0x0E, 0x00]).xport = none ∧
    (s0Port [0x0E, 0x00]).port = 0x0E :: [0x00] ∧ (0x0E : Word).extractLsb' 0 8 = 0x0E ∧
    ([0x00] : List Word).length < 2 := by
  decide

theorem witness_BusyPortHoldsHost :
    (Instr.clear).isRequest = true ∧ (s0.accept .home).busy = true ∧
    step (s0.accept .home) = .next (s0.accept .home).advance :=
  ⟨rfl, rfl, rfl⟩

/-- At a write the bus completes, at one it fails, at an assignment with a failure as the next answer, and at
the end of the list. -/
theorem witness_PcAdvancesByOne :
    (s0.accept .clear).active = some .clear ∧ (s0.accept .clear).answerAt 0 = .ok ∧
    (program s0.cfg .clear)[0]?.map Micro.isWrite = some true ∧
    ((s0Bus [.failOld]).accept .clear).answerAt 0 ≠ .ok ∧
    ((s0Bus [.failOld]).accept .blinkOn).active = some .blinkOn ∧
    (program s0.cfg .blinkOn)[0]?.map Micro.isWrite = some false ∧
    { s0.accept .clear with pc := 9 }.active = some .clear ∧ (program s0.cfg .clear)[9]? = none := by
  decide

theorem witness_MicroStepsReachExec : (Instr.init).isRequest = true ∧ fresh.busy = false := by decide

theorem witness_OneResponsePerRequest : (Instr.init).isRequest = true ∧ fresh.busy = false := by decide

/-- An idle state with the invariant, the block at its end of P1. -/
theorem inv_s0 : Inv s0 where
  validCfg := by decide
  noTransportWord := rfl
  pcFits := by decide
  kFits := by decide
  idleCopy := fun _ => rfl
  optimisticCopy := fun _ => rfl
  syncedInit := fun _ => rfl
  syncedKnown := by decide
  inProgress := fun _ h => nomatch h
  knownStrobe := by decide
  knownPhase := fun _ => rfl

/-- A state with the invariant inside DISPLAY_OFF, the enable line high: micro-step 2 is next. -/
def midway : State :=
  { s0 with
    active := some .displayOff, op := 0x07, pc := 2, k := 1, latch := 0x0C
    sh := { shadow2C with displayOn := false }, w := { shadow2C with displayOn := false } }

theorem inv_midway : Inv midway where
  validCfg := by decide
  noTransportWord := rfl
  pcFits := by decide
  kFits := by decide
  idleCopy := fun _ => rfl
  optimisticCopy := fun _ => rfl
  syncedInit := fun _ => rfl
  syncedKnown := by decide
  inProgress := by
    intro i h
    obtain rfl : Instr.displayOff = i := Option.some.inj h
    exact
      { isRequest := rfl, wellFormed := rfl, opcode := rfl, pcInList := by decide, countsWrites := by decide
        initUnsynced := (fun h => nomatch h), initUnknown := (fun h => nomatch h)
        initReady := (fun h => nomatch h), strobe := by decide }
  knownStrobe := by decide
  knownPhase := fun _ => rfl

theorem witness_StepKeepsInvariant : Inv s0 ∧ step s0 = .next s0 ∧
    Inv midway ∧ step midway = .next midway.advance :=
  ⟨inv_s0, rfl, inv_midway, rfl⟩

theorem witness_ConstructionHasInvariant :
    cfgValid { resetCfg with rows := 1, tEdge := 1, tEdgePos := by decide, policy := .confirmed, lines := otherEn } =
      true := by
  decide

theorem witness_ConfigurationNeverWritten : step (s0Port [0x15]) = .next { s0Port [0x15] with refused := true, port := [] } :=
  rfl

theorem witness_StickyMarksNeverCleared : { s0 with fBeforeInit := true, refused := true }.fBeforeInit = true ∧
    { s0 with fBeforeInit := true, refused := true }.refused = true ∧
    ∃ t, step { s0 with fBeforeInit := true, refused := true } = .next t :=
  ⟨rfl, rfl, _, rfl⟩

theorem witness_RecordsOnlyGrow : ∃ t, step (s0Port [0x02]) = .next t := ⟨_, rfl⟩

theorem witness_InitFlagsOnlyByInit : Instr.clear ≠ .init ∧ ∃ t, exec .clear s0 = .next t :=
  ⟨by decide, _, rfl⟩

theorem witness_ExecFrame : ∃ t, exec (.cmdSetDdramAddress 0x43) s0 = .next t := ⟨_, rfl⟩

/-- CLEAR is outside every flag's list. -/
theorem witness_ShadowWrittenOnlyByItsRequests : (∃ t, exec .clear s0 = .next t) ∧
    Instr.clear ≠ .backlightOn ∧ Instr.clear ≠ .backlightOff ∧ Instr.clear ≠ .init ∧
    Instr.clear ≠ .displayOn ∧ Instr.clear ≠ .displayOff ∧ Instr.clear ≠ .cursorOn ∧
    Instr.clear ≠ .cursorOff ∧ Instr.clear ≠ .blinkOn ∧ Instr.clear ≠ .blinkOff ∧
    Instr.clear ≠ .leftToRight ∧ Instr.clear ≠ .rightToLeft ∧ Instr.clear ≠ .shiftInc ∧
    Instr.clear ≠ .shiftDec :=
  ⟨⟨_, rfl⟩, by decide⟩

theorem witness_WritesCarryBacklight : Micro.write .zero ∈ program s0.cfg .backlightOff := by decide

theorem witness_RequestWritesCarryBacklight : (Instr.clear).isRequest = true ∧ Instr.clear ≠ .init ∧
    Instr.clear ≠ .backlightOn ∧ Instr.clear ≠ .backlightOff ∧ s0.busy = false ∧
    ∃ t, exec .clear s0 = .next t :=
  ⟨rfl, by decide, by decide, by decide, rfl, _, rfl⟩

/-- The last strobe of the bring-up, whose second settle ends with the receiver ready, and CLEAR's first. -/
theorem witness_EnableStrobeShape :
    (program s0.cfg .init)[16]? = some (.write (.nibble (.lit 0x20) .high .command true)) ∧
    (program s0.cfg .clear)[0]? = some (.write (.nibble (.lit 0x01) .high .command true)) := by
  decide

theorem witness_OnlyKnownCommandsSent : (Instr.setcursor 0xFF 0xFF).isRequest = true ∧
    (Instr.setcursor 0xFF 0xFF).WellFormed ∧ s0.busy = false ∧ s0.rx = .hi ∧ s0.busOk 36 :=
  ⟨rfl, rfl, rfl, rfl, s0_busOk (by decide)⟩

theorem witness_ExpanderWriteOk : s0.busOk 1 := s0_busOk (by decide)

theorem witness_Exp8Literals : resetCfg.lines = exp8Lines := rfl

/-- The three answers of the bus. -/
theorem witness_WriteSettlesLatch : s0.answerAt 0 = .ok ∧ (s0Bus [.failOld]).answerAt 0 = .failOld ∧
    (s0Bus [.failLanded]).answerAt 0 = .failLanded := by
  decide

/-- A receiver in each of its states, with the mode of the nibble to come and with the other. -/
theorem witness_WriteNibbleDeliversOne : s0.busOk 2 ∧ s0.rx = .hi ∧
    { s0 with rx := .lo 0x2 .command }.busOk 2 ∧ { s0 with rx := .lo 0x2 .command }.rx = .lo 0x2 .command ∧
    Mode.command ≠ Mode.data ∧ fresh.busOk 2 ∧ fresh.rx = .unknown :=
  ⟨s0_busOk (by decide), rfl, s0_busOk (by decide), rfl, by decide,
    State.busOk_mono (State.busOk_of_replicate (n := 36) (rest := []) rfl) (by decide), rfl⟩

theorem witness_SendByteDeliversByte : s0.busOk 4 ∧ s0.rx = .hi := ⟨s0_busOk (by decide), rfl⟩

/-- A read cycle, an edge in each state of the receiver, and no edge. -/
theorem witness_ObserverLatchesNibble : s0.cfg.lines = exp8Lines ∧ (0x02 : Byte).getLsbD 1 = true ∧
    (0x29 : Byte).getLsbD 1 = false ∧ { s0 with latch := 0x2D }.latch.getLsbD 2 = true ∧
    (0x29 : Byte).getLsbD 2 = false ∧ (if (0x29 : Byte).getLsbD 0 then Mode.data else .command) = .data ∧
    ¬(s0.latch.getLsbD 2 = true ∧ (0x29 : Byte).getLsbD 2 = false) ∧ s0.rx = .hi ∧ fresh.rx = .unknown ∧
    { s0 with rx := .lo 0x4 .data }.rx = .lo 0x4 .data ∧
    { s0 with rx := .lo 0x4 .command }.rx = .lo 0x4 .command ∧ s0.answerAt 0 = .ok ∧
    (s0Bus [.failOld]).answerAt 0 = .failOld ∧ (s0Bus [.failLanded]).answerAt 0 = .failLanded := by
  decide

theorem witness_InitResult : fresh.busy = false ∧ fresh.busOk 25 :=
  ⟨rfl, State.busOk_mono (State.busOk_of_replicate (n := 36) (rest := []) rfl) (by decide)⟩

theorem witness_InitEndState : fresh.busy = false ∧ fresh.busOk 25 :=
  ⟨rfl, State.busOk_mono (State.busOk_of_replicate (n := 36) (rest := []) rfl) (by decide)⟩

theorem witness_ClearHomeResult : s0.busy = false ∧ s0.busOk 4 := ⟨rfl, s0_busOk (by decide)⟩

theorem witness_SetcursorResult : s0.busy = false ∧ s0.busOk 4 := ⟨rfl, s0_busOk (by decide)⟩

/-- A row below ROWS and one at ROWS. -/
theorem witness_SetcursorCommandByte : s0.busy = false ∧ s0.busOk 4 ∧ s0.rx = .hi ∧ s0.cfg.rows ≠ 0 ∧
    ¬ s0.cfg.rows ≤ 1 ∧ s0.cfg.rows ≤ 2 :=
  ⟨rfl, s0_busOk (by decide), rfl, by decide, by decide, by decide⟩

theorem witness_DisplayControlResult : s0.busy = false ∧ s0.busOk 4 := ⟨rfl, s0_busOk (by decide)⟩

/-- With a receiver that is not UNKNOWN, and with one that is. -/
theorem witness_BacklightResult : s0.busy = false ∧ s0.busOk 1 ∧ s0.rx ≠ .unknown ∧
    lineHigh s0.latch (enMask s0.cfg) = false ∧ fresh.busy = false ∧ fresh.rx = .unknown :=
  ⟨rfl, s0_busOk (by decide), by decide, by decide, rfl, rfl⟩

theorem witness_ScrollResult : s0.busy = false ∧ s0.busOk 4 := ⟨rfl, s0_busOk (by decide)⟩

theorem witness_EntryModeResult : s0.busy = false ∧ s0.busOk 4 := ⟨rfl, s0_busOk (by decide)⟩

theorem witness_PutcResult : s0.busy = false ∧ s0.busOk 4 := ⟨rfl, s0_busOk (by decide)⟩

theorem witness_CharacterByteTruncated : s0.busy = false ∧ s0.busOk 4 ∧ s0.rx = .hi :=
  ⟨rfl, s0_busOk (by decide), rfl⟩

theorem witness_GlyphRowsSentUnmodified : ([1, 2, 3, 4, 5, 6, 7, 0xFF] : List Byte).length = 8 ∧
    s0.busy = false ∧ s0.busOk 36 ∧ s0.rx = .hi :=
  ⟨rfl, rfl, s0_busOk (by decide), rfl⟩

theorem witness_CgdefResult : ([1, 2, 3, 4, 5, 6, 7, 8] : List Byte).length = 8 ∧ s0.busy = false ∧ s0.busOk 36 :=
  ⟨rfl, rfl, s0_busOk (by decide)⟩

theorem witness_CgdefSlotMasked : s0.busy = false := rfl

/-- The last row, the one past it, and the greatest. -/
theorem witness_SetcursorRowClamped : s0.busy = false ∧ s0.cfg.rows ≠ 0 ∧ s0.cfg.rows ≤ 2 ∧
    s0.cfg.rows ≤ 0xFF := by
  decide

theorem witness_DisplayCursorBlinkRoundTrip : s0.busy = false ∧ s0.busOk 12 ∧ s0.rx = .hi :=
  ⟨rfl, s0_busOk (by decide), rfl⟩

theorem witness_PrintDeliversText : (s0Port [0x004804, 0x4E2D04]).busy = false ∧
    (s0Port [0x004804, 0x4E2D04]).xport = none ∧ (s0Port [0x004804, 0x4E2D04]).rx = .hi ∧
    (s0Port [0x004804, 0x4E2D04]).busOk (4 * ([0x48, 0x4E2D] : List (BitVec 24)).length) ∧
    (s0Port [0x004804, 0x4E2D04]).port =
      ([0x48, 0x4E2D] : List (BitVec 24)).map (fun cp => cp ++ (0x04 : Byte)) :=
  ⟨rfl, rfl, rfl, s0_busOk (by decide), by decide⟩

theorem witness_CommandByteResult : s0.busOk 4 := s0_busOk (by decide)

theorem witness_InitNibbleResult : s0.busOk 2 := s0_busOk (by decide)

/-- A failure at the third write of INIT, in both draws of the latch and under both policies. -/
theorem witness_FailureEndsRequest : (Instr.init).isRequest = true ∧
    (s0Bus [.ok, .ok, .failOld]).busy = false ∧ 2 < writeCount (program s0.cfg .init) ∧
    (s0Bus [.ok, .ok, .failOld]).busOk 2 ∧ (s0Bus [.ok, .ok, .failOld]).answerAt 2 = .failOld ∧
    (s0Bus [.ok, .ok, .failLanded]).answerAt 2 = .failLanded ∧
    (s0Bus [.ok, .ok, .failOld]).answerAt 2 ≠ .ok ∧ s0Confirmed.cfg.policy = .confirmed := by
  refine ⟨rfl, rfl, by decide, ?_, rfl, rfl, by decide, rfl⟩
  exact State.busOk_of_replicate (n := 2) (rest := [.failOld]) rfl

theorem witness_UseBeforeInitMarked : (Instr.clear).isRequest = true ∧ Instr.clear ≠ .init ∧
    fresh.busy = false ∧ fresh.initDone = false := by
  decide

/-- The first write of DISPLAY_OFF fails, under both policies. -/
theorem witness_CommitPolicyOnFailure : flagAssigned .displayOff = some (.displayOn, false) ∧
    (s0Bus [.failOld]).busy = false ∧
    ¬ (s0Bus [.failOld]).busOk (writeCount (program s0.cfg .displayOff)) ∧
    (∃ t, exec .displayOff (s0Bus [.failOld]) = .next t) ∧ s0.cfg.policy = .optimistic ∧
    s0Confirmed.cfg.policy = .confirmed :=
  ⟨rfl, rfl, fun h => absurd (h 0 (by decide)) (by decide), ⟨_, rfl⟩, rfl, rfl⟩

/-- A failure at each boundary of the assignments: writes 11, 12, 15, 16, 23 and 24. -/
theorem witness_InitFailure (j : Nat) (h : j ∈ [0, 11, 12, 15, 16, 23, 24]) :
    (s0Bus (List.replicate j .ok ++ [.failOld])).busy = false ∧ j < 25 ∧
    (s0Bus (List.replicate j .ok ++ [.failOld])).busOk j ∧
    (s0Bus (List.replicate j .ok ++ [.failOld])).answerAt j ≠ .ok := by
  refine ⟨rfl, ?_, State.busOk_of_replicate (n := j) (rest := [.failOld]) rfl, ?_⟩
  · revert j; decide
  · unfold State.answerAt s0Bus
    simp

/-- ROWS at the two ends of what can be constructed, and 0. -/
theorem witness_ConstructionResult : { resetCfg with rows := 1 }.rows ≠ 0 ∧ { resetCfg with rows := 255 }.rows ≠ 0 ∧
    { resetCfg with rows := 0 }.rows = 0 := by
  decide

theorem witness_RequestCosts : (Instr.cgdef 1 [1, 2, 3, 4, 5, 6, 7, 8]).WellFormed ∧
    (Instr.cgdef 1 [1, 2, 3, 4, 5, 6, 7, 8]).isRequest = true ∧
    resetCfg.tEdge = 1000 ∧ resetCfg.tPower = 50000 ∧ resetCfg.tInit1 = 5000 ∧ resetCfg.tInit2 = 5000 ∧
    resetCfg.tInit3 = 1000 ∧ resetCfg.tSlow = 2000 := by
  decide

end Sys2Proof.Tests
end

/-! PROOF. The statements of 00_scope.md: a request stepped through is the request performed at once (R17,
R22), the records only grow (R19, R72), and the lines of R11 give the literals of R100 to R103. -/

namespace Sys2Proof.Machine

/-! ## The sequencer's move, by what is left of the list -/

theorem State.remaining_of_active {s : State} {i : Instr} (h : s.active = some i) :
    s.remaining = (program s.cfg i).drop s.pc := by
  simp only [State.remaining, h]

/-- At the end of its list a request completes (10_state.md R22). -/
theorem State.advance_of_remaining_nil {s : State} (hb : s.busy = true) (h : s.remaining = []) :
    s.advance = s.complete := by
  obtain ⟨i, ha⟩ := Option.isSome_iff_exists.mp hb
  rw [State.remaining_of_active ha, List.drop_eq_nil_iff] at h
  simp only [State.advance, ha, List.getElem?_eq_none h]

/-- Before it, the first micro-step left is performed. -/
theorem State.advance_of_remaining_cons {s : State} {m : Micro} {l : List Micro} (hb : s.busy = true)
    (h : s.remaining = m :: l) : s.advance = (s.micro m).state := by
  obtain ⟨i, ha⟩ := Option.isSome_iff_exists.mp hb
  rw [State.remaining_of_active ha] at h
  have hm : (program s.cfg i)[s.pc]? = some m := by rw [← List.head?_drop, h]; rfl
  simp only [State.advance, ha, hm]

/-- A micro-step that goes on leaves the request in progress, with the rest of its list. -/
theorem State.micro_going_remaining {s t : State} {m : Micro} {l : List Micro} (hb : s.busy = true)
    (h : s.remaining = m :: l) (hm : s.micro m = .going t) : t.busy = true ∧ t.remaining = l := by
  obtain ⟨i, ha⟩ := Option.isSome_iff_exists.mp hb
  have hc : t.cfg = s.cfg := by simpa [hm, Progress.state] using (s.micro_keeps m).cfg
  have g : Goes s t [m] := (State.micro_going hm).1 ▸ s.okMicro_goes m
  have ht : t.active = some i := g.active.trans ha
  refine ⟨by simp [State.busy, ht], ?_⟩
  rw [State.remaining_of_active ha] at h
  rw [State.remaining_of_active ht, hc, g.pc, List.length_singleton, ← List.tail_drop, h, List.tail_cons]

/-! ## Stepping through a request -/

theorem step_busy {s : State} (h : s.busy = true) : step s = .next s.advance := by
  simp only [step, h]

/-- From any point of a request, the core's steps reach the state that running the rest of its list at once
gives: one step per micro-step performed, and one for the completion actions. -/
theorem core_run_remaining {l : List Micro} {s : State} (hb : s.busy = true) (h : s.remaining = l) :
    ∃ n, n ≤ l.length + 1 ∧ core.run n s = .next (s.runMicros l).settle := by
  induction l generalizing s with
  | nil =>
    refine ⟨1, Nat.le_refl _, ?_⟩
    rw [core_run_next (step_busy hb), State.advance_of_remaining_nil hb h]
    rfl
  | cons m l ih =>
    have hs : step s = .next (s.micro m).state := by
      rw [step_busy hb, State.advance_of_remaining_cons hb h]
    rw [State.runMicros_cons]
    cases hm : s.micro m with
    | going t =>
      rw [hm] at hs
      obtain ⟨hb', h'⟩ := State.micro_going_remaining hb h hm
      obtain ⟨n, hn, hrun⟩ := ih hb' h'
      exact ⟨n + 1, Nat.succ_le_succ hn, (core_run_next hs n).trans hrun⟩
    | aborted t =>
      rw [hm] at hs
      exact ⟨1, Nat.le_add_left 1 _, core_run_next hs 0⟩

theorem State.accept_remaining (s : State) (i : Instr) : (s.accept i).remaining = program s.cfg i := by
  rw [State.remaining_of_active (State.accept_active s i)]
  simp

/-- Settles O12: induction on what is left of the micro-step list, from acceptance. -/
theorem microStepsReachExec : Obligations.MicroStepsReachExec := by
  intro i s hr hb
  rw [exec_request s hr, performRequest_idle hb]
  exact core_run_remaining (by simp [State.busy]) (s.accept_remaining i)

/-! ## The records -/

/-- The trace and XFERS of `s` are prefixes of those of `t` (R19, 20_memory.md R72). -/
def RecordsGrow (s t : State) : Prop := s.trace <+: t.trace ∧ s.xfers <+: t.xfers

theorem RecordsGrow.trans {s t u : State} (h : RecordsGrow s t) (g : RecordsGrow t u) : RecordsGrow s u :=
  ⟨h.1.trans g.1, h.2.trans g.2⟩

theorem RecordsGrow.of_eq {s t : State} (ht : t.trace = s.trace) (hx : t.xfers = s.xfers) : RecordsGrow s t :=
  ⟨ht ▸ List.prefix_refl _, hx ▸ List.prefix_refl _⟩

theorem Keeps.recordsGrow {s t : State} (h : Keeps s t) : RecordsGrow s t := ⟨h.trace, h.xfers⟩

/-- Completion adds its response (60_exceptions.md R242). -/
theorem State.complete_recordsGrow (s : State) : RecordsGrow s s.complete :=
  ⟨List.prefix_append _ _, List.prefix_refl _⟩

theorem Progress.settle_recordsGrow (p : Progress) : RecordsGrow p.state p.settle := by
  cases p with
  | going t => exact t.complete_recordsGrow
  | aborted t => exact .of_eq rfl rfl

theorem State.advance_recordsGrow {s : State} (hb : s.busy = true) : RecordsGrow s s.advance := by
  cases h : s.remaining with
  | nil =>
    rw [State.advance_of_remaining_nil hb h]
    exact s.complete_recordsGrow
  | cons m l =>
    rw [State.advance_of_remaining_cons hb h]
    exact (s.micro_keeps m).recordsGrow

theorem exec_recordsGrow {i : Instr} {s t : State} (h : exec i s = .next t) : RecordsGrow s t := by
  cases hr : i.isRequest with
  | false =>
    rw [exec_transport_cases hr h]
    exact (RecordsGrow.of_eq (by simp) (by simp)).trans (State.runMicros_keeps _ _).recordsGrow
  | true =>
    have hrun := ((s.accept i).runMicros_keeps (program s.cfg i)).recordsGrow
    have haccept : RecordsGrow s (s.accept i) := .of_eq (by simp) (by simp)
    rcases exec_request_cases hr h with ⟨-, rfl⟩ | ⟨-, u, hu, rfl⟩ | ⟨-, hu⟩
    · exact .of_eq rfl rfl
    · rw [hu] at hrun
      exact (haccept.trans hrun).trans u.complete_recordsGrow
    · rw [hu] at hrun
      exact haccept.trans hrun

/-- Settles O19: each thing a step can do adds to the records or leaves them. -/
theorem recordsOnlyGrow : Obligations.RecordsOnlyGrow := by
  intro s t h
  show RecordsGrow s t
  rcases step_cases s with ⟨hb, hs⟩ | ⟨-, -, -, hs⟩ | ⟨c, u, -, hu, hrun⟩
  · obtain rfl : s.advance = t := by rw [hs] at h; injection h
    exact State.advance_recordsGrow hb
  · obtain rfl : s = t := by rw [hs] at h; injection h
    exact .of_eq rfl rfl
  · have htake : RecordsGrow s u := by
      rcases hu with ⟨_, -, -, rfl⟩ | ⟨_, _, _, -, -, -, rfl⟩ <;> exact .of_eq rfl rfl
    rcases hrun with ⟨i, -, hs⟩ | ⟨_, -, hs⟩
    · exact htake.trans (exec_recordsGrow (hs.symm.trans h))
    · obtain rfl : u.refuse = t := by rw [hs] at h; injection h
      exact htake.trans (.of_eq rfl rfl)

/-! ## The lines of R100 -/

section
variable {c : Cfg} (h : c.lines = exp8Lines)
include h

/-- The masks of R103, with the line each stands for. -/
theorem masks_of_exp8Lines : blMask c = lineMask 3 ∧ enMask c = lineMask 2 ∧ rwMask c = lineMask 1 ∧
    rsMask c = lineMask 0 := by
  simp only [blMask, enMask, rwMask, rsMask, h]
  exact ⟨rfl, rfl, rfl, rfl⟩

theorem dataBits_of_exp8Lines (n : Nibble) : dataBits c n = n ++ (0 : Nibble) := by
  simp only [dataBits, h]
  revert n; decide

theorem nibbleOfByte_of_exp8Lines (b : Byte) : nibbleOfByte c b = b.extractLsb' 4 4 := by
  simp only [nibbleOfByte, h]
  rfl

theorem modeBits_of_exp8Lines (m : Mode) : modeBits c m = if m = .data then 0x01 else 0x00 := by
  obtain ⟨-, -, -, hrs⟩ := masks_of_exp8Lines h
  cases m with
  | command => rfl
  | data => exact hrs

theorem nibbleLines_of_exp8Lines (n : Nibble) (m : Mode) :
    nibbleLines c n m = (n ++ (0 : Nibble)) ||| if m = .data then 0x01 else 0x00 := by
  rw [nibbleLines, dataBits_of_exp8Lines h, modeBits_of_exp8Lines h]

end

/-- The high nibble of `v` in bits 7:4 is `v & 0xF0` (40_transport.md R145). -/
theorem highNibble_append_zero (v : Byte) : v.extractLsb' 4 4 ++ (0 : Nibble) = v &&& 0xF0 := by
  revert v; decide

/-- The low nibble of `v` in bits 7:4 is `(v << 4) & 0xF0` (R145). -/
theorem lowNibble_append_zero (v : Byte) : v.extractLsb' 0 4 ++ (0 : Nibble) = (v <<< 4) &&& 0xF0 := by
  revert v; decide

/-- Settles O28: the masks are single bits, and reading a line is reading its bit. -/
theorem exp8Literals : Obligations.Exp8Literals := by
  refine ⟨rfl, fun c h => ?_⟩
  obtain ⟨hbl, hen, hrw, hrs⟩ := masks_of_exp8Lines h
  refine ⟨hbl, hen, hrw, hrs, dataBits_of_exp8Lines h, fun on => by rw [backlightBit, hbl]; rfl,
    fun v m => ⟨?_, ?_⟩, fun b => ⟨nibbleOfByte_of_exp8Lines h b, ?_, ?_, ?_, ?_⟩⟩
  · rw [highNibbleByte_eq, nibbleLines_of_exp8Lines h, highNibble_append_zero]
  · rw [lowNibbleByte_eq, nibbleLines_of_exp8Lines h, lowNibble_append_zero]
  · rw [modeOfByte, hrs, lineHigh_lineMask]; rfl
  · rw [hen, lineHigh_lineMask]; rfl
  · rw [hrw, lineHigh_lineMask]; rfl
  · rw [hbl, lineHigh_lineMask]; rfl

end Sys2Proof.Machine

/-! PROOF. The statements of 10_state.md: every step keeps the invariant `Inv`, which construction gives
(R28 to R31, R40, R42); the sequencer's PC and a request's one response (R22, R37); what no step or no
instruction writes (R23, R27, R28, R30, R36, R38); the commit policy at a failed write (R31); fetching and
waiting (R36); the packed view of the shadow register (R26). -/

namespace Sys2Proof.Machine

/-! ## Lists a receiver in step can follow -/

/-- After each write the enable line stands where the list's next write needs it: high after a write that
raises it, low after any other (40_transport.md R142). -/
def strobesAlternate : List Micro → Bool
  | [] => true
  | .write .zero :: l => !strobeDue l && strobesAlternate l
  | .write (.nibble _ _ _ en) :: l => strobeDue l == en && strobesAlternate l
  | .sleep _ :: l => strobesAlternate l
  | .sleepReady _ :: l => strobesAlternate l
  | .assign _ :: l => strobesAlternate l

/-- Is this the delay after which the receiver is ready (41_init.md R166)? -/
def Micro.readies : Micro → Bool
  | .sleepReady _ => true
  | _ => false

/-- Nibbles come in pairs: a low nibble of the same mode after each high one, none due after a low one; and
nothing else moves the receiver. -/
def nibblesPaired : List Micro → Bool
  | [] => true
  | .write (.nibble _ .high m false) :: l => lowDue l == some m && nibblesPaired l
  | .write (.nibble _ .low _ false) :: l => lowDue l == none && nibblesPaired l
  | .write (.nibble _ _ _ true) :: l => nibblesPaired l
  | .write .zero :: l => nibblesPaired l
  | .sleep _ :: l => nibblesPaired l
  | .sleepReady _ :: _ => false
  | .assign _ :: l => nibblesPaired l

theorem strobesAlternate_tail {m : Micro} {l : List Micro} (h : strobesAlternate (m :: l) = true) :
    strobesAlternate l = true := by
  cases m with
  | write x => cases x <;> simp_all [strobesAlternate]
  | sleep d => exact h
  | sleepReady d => exact h
  | assign a => exact h

theorem nibblesPaired_tail {m : Micro} {l : List Micro} (h : nibblesPaired (m :: l) = true) :
    nibblesPaired l = true := by
  cases m with
  | write x =>
    cases x with
    | zero => exact h
    | nibble v half mode en => cases half <;> cases en <;> simp_all [nibblesPaired]
  | sleep d => exact h
  | sleepReady d => exact absurd h (by simp [nibblesPaired])
  | assign a => exact h

theorem strobesAlternate_drop {l : List Micro} (h : strobesAlternate l = true) (n : Nat) :
    strobesAlternate (l.drop n) = true := by
  induction n generalizing l with
  | zero => exact h
  | succ n ih =>
    cases l with
    | nil => exact h
    | cons m l => exact ih (strobesAlternate_tail h)

theorem nibblesPaired_drop {l : List Micro} (h : nibblesPaired l = true) (n : Nat) :
    nibblesPaired (l.drop n) = true := by
  induction n generalizing l with
  | zero => exact h
  | succ n ih =>
    cases l with
    | nil => exact h
    | cons m l => exact ih (nibblesPaired_tail h)

theorem nibblesPaired_readies {m : Micro} {l : List Micro} (h : nibblesPaired (m :: l) = true) :
    m.readies = false := by
  cases m with
  | sleepReady d => exact absurd h (by simp [nibblesPaired])
  | _ => rfl

/-! ## The lists of the requests -/

section
variable (v : Value) (mode : Mode) (l : List Micro)

@[simp] theorem strobeDue_sendByte : strobeDue (sendByte v mode ++ l) = false := rfl

@[simp] theorem lowDue_sendByte : lowDue (sendByte v mode ++ l) = none := rfl

@[simp] theorem length_sendByte : (sendByte v mode).length = 8 := rfl

@[simp] theorem writeCount_sendByte : writeCount (sendByte v mode) = 4 := rfl

@[simp] theorem strobesAlternate_sendByte :
    strobesAlternate (sendByte v mode ++ l) = (!strobeDue l && strobesAlternate l) := by
  simp [sendByte, writeNibble, strobesAlternate, strobeDue]

@[simp] theorem nibblesPaired_sendByte :
    nibblesPaired (sendByte v mode ++ l) = (lowDue l == none && nibblesPaired l) := by
  simp [sendByte, writeNibble, nibblesPaired, lowDue]

end

/-- A list a receiver can follow from a byte boundary with the enable line low: whole strobes, paired
nibbles, and neither a falling edge nor a low nibble due at its start. -/
structure FromBoundary (l : List Micro) : Prop where
  strobes : strobesAlternate l = true
  nibbles : nibblesPaired l = true
  strobe : strobeDue l = false
  low : lowDue l = none

/-- A byte sent leaves the receiver at a boundary again (40_transport.md R145). -/
theorem FromBoundary.sendByte {l : List Micro} (h : FromBoundary l) (v : Value) (mode : Mode) :
    FromBoundary (sendByte v mode ++ l) :=
  ⟨by simp [h.strobe, h.strobes], by simp [h.low, h.nibbles], rfl, rfl⟩

/-- A glyph's rows, one transfer each (43_data.md R225). -/
theorem sendBytes_fromBoundary (mode : Mode) (rows : List Byte) :
    FromBoundary (rows.flatMap fun r => sendByte (.lit r) mode) := by
  induction rows with
  | nil => exact ⟨rfl, rfl, rfl, rfl⟩
  | cons r rows ih => exact ih.sendByte (.lit r) mode

theorem length_sendBytes (mode : Mode) (rows : List Byte) :
    (rows.flatMap fun r => sendByte (.lit r) mode).length = 8 * rows.length := by
  induction rows with
  | nil => rfl
  | cons r rows ih => rw [List.flatMap_cons, List.length_append, length_sendByte, ih, List.length_cons]; omega

theorem writeCount_sendBytes (mode : Mode) (rows : List Byte) :
    writeCount (rows.flatMap fun r => sendByte (.lit r) mode) = 4 * rows.length := by
  induction rows with
  | nil => rfl
  | cons r rows ih => rw [List.flatMap_cons, writeCount_append, writeCount_sendByte, ih, List.length_cons]; omega

/-- The list of a request other than INIT. -/
theorem program_fromBoundary (c : Cfg) {i : Instr} (hr : i.isRequest = true) (hi : i ≠ .init) :
    FromBoundary (program c i) := by
  cases i <;> cases hr
  case init => exact absurd rfl hi
  case cgdef slot glyph => exact (sendBytes_fromBoundary .data glyph).sendByte (.lit (cgramByte slot)) .command
  all_goals exact ⟨rfl, rfl, rfl, rfl⟩

/-- INIT's list from micro-step 20 on. -/
theorem programSteps_fromBoundary (c : Cfg) : FromBoundary (programSteps c) := ⟨rfl, rfl, rfl, rfl⟩

theorem program_strobesAlternate (c : Cfg) {i : Instr} (hr : i.isRequest = true) :
    strobesAlternate (program c i) = true := by
  by_cases hi : i = .init
  · subst hi; rfl
  · exact (program_fromBoundary c hr hi).strobes

/-- The longest list and the most writes are CGDEF's (R21, R29). -/
theorem program_bounds (c : Cfg) {i : Instr} (hr : i.isRequest = true) (hw : i.WellFormed) :
    (program c i).length ≤ 72 ∧ writeCount (program c i) ≤ 36 := by
  cases i <;> cases hr
  case cgdef slot glyph =>
    have hg : glyph.length = 8 := eq_of_beq hw
    simp only [program, cgdefSteps, List.length_append, length_sendByte, length_sendBytes, writeCount_append,
      writeCount_sendByte, writeCount_sendBytes, hg]
    decide
  all_goals exact ⟨Nat.le_of_ble_eq_true rfl, Nat.le_of_ble_eq_true rfl⟩

/-! ## INIT's bring-up -/

theorem length_program_init (c : Cfg) : (program c .init).length = 57 := rfl

/-- INIT's receiver becomes ready at micro-step 19 and not before (41_init.md R166). -/
theorem bringUp_readies {c : Cfg} {pc : Nat} {m : Micro} {l : List Micro} (hpc : pc < 20)
    (h : (program c .init).drop pc = m :: l) :
    (pc < 19 ∧ m.readies = false) ∨ (pc = 19 ∧ m = .sleepReady .edge ∧ l = programSteps c) := by
  rcases Nat.lt_succ_iff_lt_or_eq.mp hpc with h19 | rfl
  · left
    refine ⟨h19, ?_⟩
    have hall : ∀ x ∈ (program c .init).take 19, x.readies = false := by
      simp [program, initSteps, bringUpSteps, force8bit, nibInit8bitSteps, writeNibble, switchTo4bit, Micro.readies]
    have hm : m ∈ ((program c .init).take 19).drop pc := by
      rw [List.drop_take, h, List.take_cons (by omega)]
      exact List.mem_cons_self
    exact hall m (List.mem_of_mem_drop hm)
  · right
    have e : (program c .init).drop 19 = .sleepReady .edge :: programSteps c := rfl
    obtain ⟨hm, hl⟩ := List.cons.inj (e.symm.trans h)
    exact ⟨rfl, hm.symm, hl.symm⟩

/-- From micro-step 20 on, INIT's list pairs its nibbles. -/
theorem init_nibblesPaired (c : Cfg) {pc : Nat} (h : 20 ≤ pc) : nibblesPaired ((program c .init).drop pc) = true := by
  have e : (program c .init).drop pc = (programSteps c).drop (pc - 20) := by
    rw [← Nat.add_sub_cancel' h, ← List.drop_drop, Nat.add_sub_cancel_left]
    rfl
  rw [e]
  exact nibblesPaired_drop (programSteps_fromBoundary c).nibbles _

/-! ## One micro-step, seen by the enable line and the receiver -/

/-- A completed write leaves its byte, backlight bit included, in the latch. -/
theorem State.okMicro_write_latch (s : State) (x : WriteArg) :
    (s.okMicro (.write x)).latch = x.byte s.cfg s.w ||| backlightBit s.cfg s.w.backlightOn := by
  simp [State.okMicro, State.wrote]

/-- The enable line stays where the next write needs it; a write brings it there. -/
theorem State.okMicro_strobe {s : State} {m : Micro} {l : List Micro} (hl : strobesAlternate (m :: l) = true)
    (h : m.isWrite = false → lineHigh s.latch (enMask s.cfg) = strobeDue (m :: l)) :
    lineHigh (s.okMicro m).latch (enMask s.cfg) = strobeDue l := by
  cases m with
  | write x =>
    rw [State.okMicro_write_latch]
    cases x with
    | zero =>
      simp only [strobesAlternate, Bool.and_eq_true, Bool.not_eq_true'] at hl
      exact (zero_en _ _).trans hl.1.symm
    | nibble v half mode en =>
      simp only [strobesAlternate, Bool.and_eq_true, beq_iff_eq] at hl
      rw [hl.1]
      cases en with
      | true => rw [writeArg_high]; exact high_en _ _ _ _
      | false => rw [writeArg_low]; exact low_en _ _ _ _
  | sleep d => exact h rfl
  | sleepReady d => exact h rfl
  | assign a =>
    simp only [State.okMicro, State.nextPc_latch, State.assign_latch]
    exact h rfl

/-- An UNKNOWN receiver takes no byte (20_memory.md R70). -/
theorem State.receive_rx_unknown {s : State} (p b : Byte) (h : s.rx = .unknown) : (s.receive p b).rx = .unknown := by
  unfold State.receive
  split
  · rfl
  · split
    · simp [State.latchNibble_eq, rxTake, h]
    · exact h

/-- Only the delay of R166 takes a receiver out of UNKNOWN. -/
theorem State.okMicro_rx_unknown {s : State} {m : Micro} (hm : m.readies = false) (h : s.rx = .unknown) :
    (s.okMicro m).rx = .unknown := by
  cases m with
  | write x => simpa [State.okMicro, State.wrote] using State.receive_rx_unknown _ _ (by simpa using h)
  | sleep d => exact h
  | sleepReady d => exact absurd hm (by simp [Micro.readies])
  | assign a => simpa [State.okMicro] using h

theorem rxInPhase_ne_unknown {r : Rx} {l : List Micro} (h : rxInPhase r l) : r ≠ .unknown := by
  unfold rxInPhase at h
  split at h
  · simp [h]
  · obtain ⟨n, hn⟩ := h
    simp [hn]

theorem rxInPhase_of_none {r : Rx} {l : List Micro} (h : lowDue l = none) : rxInPhase r l ↔ r = .hi := by
  simp only [rxInPhase, h]

theorem rxInPhase_of_some {r : Rx} {l : List Micro} {m : Mode} (h : lowDue l = some m) :
    rxInPhase r l ↔ ∃ n, r = .lo n m := by
  simp only [rxInPhase, h]

/-- The phase depends on when the next low nibble is due alone. -/
theorem rxInPhase_congr {r : Rx} {l l' : List Micro} (h : lowDue l = lowDue l') : rxInPhase r l ↔ rxInPhase r l' := by
  simp only [rxInPhase, h]

/-- A receiver in phase with the enable line and the nibbles to come stays in phase (R70). -/
theorem State.okMicro_phase {s : State} {m : Micro} {l : List Micro} (hl : nibblesPaired (m :: l) = true)
    (he : lineHigh s.latch (enMask s.cfg) = strobeDue (m :: l)) (h : rxInPhase s.rx (m :: l)) :
    rxInPhase (s.okMicro m).rx l := by
  cases m with
  | write x =>
    cases x with
    | zero =>
      rw [State.okMicro_zero s (fun _ => he)]
      exact h
    | nibble v half mode en =>
      cases en with
      | true =>
        rw [State.okMicro_high]
        cases half <;> exact h
      | false =>
        rw [State.okMicro_low s v half mode he, State.latchNibble_eq]
        cases half with
        | high =>
          simp only [nibblesPaired, Bool.and_eq_true, beq_iff_eq] at hl
          rw [rxInPhase_of_none rfl] at h
          rw [rxInPhase_of_some hl.1, h]
          exact ⟨_, rfl⟩
        | low =>
          simp only [nibblesPaired, Bool.and_eq_true, beq_iff_eq] at hl
          obtain ⟨n, hn⟩ := (rxInPhase_of_some rfl).mp h
          rw [rxInPhase_of_none hl.1, hn]
          simp [rxTake]
  | sleep d => exact h
  | sleepReady d => exact absurd hl (by simp [nibblesPaired])
  | assign a =>
    simp only [State.okMicro, State.nextPc_rx, State.assign_rx]
    exact h

/-- Under OPTIMISTIC an assignment reaches both copies (R31). -/
theorem State.okMicro_copies {s : State} {m : Micro} (hp : s.cfg.policy = .optimistic) (h : s.w = s.sh) :
    (s.okMicro m).w = (s.okMicro m).sh := by
  cases m with
  | write x => simpa [State.okMicro, State.wrote] using h
  | sleep d => exact h
  | sleepReady d => exact h
  | assign a => simp [State.okMicro, State.assign_sh, hp, h]

/-! ## The three ways the receiver can stand at a micro-step -/

/-- Inside a request with the invariant the receiver is UNKNOWN and stays so, or it becomes ready at INIT's
micro-step 19, or it is ready and in phase with nibbles that come in pairs. -/
theorem Inv.rx_cases {s : State} {i : Instr} {m : Micro} {l : List Micro} (hs : Inv s) (ha : s.active = some i)
    (hrem : s.remaining = m :: l) :
    (s.rx = .unknown ∧ m.readies = false ∧ (i = .init → s.pc < 19)) ∨
    (i = .init ∧ s.pc = 19 ∧ m = .sleepReady .edge ∧ l = programSteps s.cfg) ∨
    (s.rx ≠ .unknown ∧ nibblesPaired (m :: l) = true ∧ (i = .init → 20 ≤ s.pc)) := by
  have hi := hs.inProgress i ha
  have hdrop := (State.remaining_of_active ha).symm.trans hrem
  by_cases hinit : i = .init
  · subst hinit
    rcases Nat.lt_or_ge s.pc 20 with hpc | hpc
    · rcases bringUp_readies hpc hdrop with ⟨h19, hm⟩ | ⟨h19, hm, hl⟩
      · exact .inl ⟨hi.initUnknown rfl hpc, hm, fun _ => h19⟩
      · exact .inr (.inl ⟨rfl, h19, hm, hl⟩)
    · exact .inr (.inr ⟨hi.initReady rfl hpc, hdrop ▸ init_nibblesPaired s.cfg hpc, fun _ => hpc⟩)
  · have hp : nibblesPaired (m :: l) = true :=
      hdrop ▸ nibblesPaired_drop (program_fromBoundary s.cfg hi.isRequest hinit).nibbles s.pc
    by_cases hr : s.rx = .unknown
    · exact .inl ⟨hr, nibblesPaired_readies hp, fun h => absurd h hinit⟩
    · exact .inr (.inr ⟨hr, hp, fun h => absurd h hinit⟩)

/-! ## The invariant along a request -/

theorem writeCount_take_le (l : List Micro) (n : Nat) : writeCount (l.take n) ≤ writeCount l :=
  (List.take_sublist n l).countP_le

/-- Counting the write of the micro-step at `n`. -/
theorem writeCount_take_succ {l r : List Micro} {m : Micro} {n : Nat} (h : l.drop n = m :: r) :
    writeCount (l.take (n + 1)) = writeCount (l.take n) + writeCount [m] := by
  rw [List.take_add, h, writeCount_append]
  rfl

section
variable {s : State} {i : Instr} {m : Micro} {l : List Micro} (hs : Inv s) (ha : s.active = some i)
  (hrem : s.remaining = m :: l)
include hs ha hrem

/-- PC points into the list, and its count of writes goes on (R21, R29). -/
theorem Inv.okMicro_counts : s.pc < (program s.cfg i).length ∧
    (s.okMicro m).k = writeCount ((program s.cfg i).take (s.pc + 1)) := by
  have hdrop := (State.remaining_of_active ha).symm.trans hrem
  refine ⟨?_, ?_⟩
  · refine Nat.lt_of_not_le fun hge => ?_
    rw [List.drop_eq_nil_of_le hge] at hdrop
    cases hdrop
  · rw [(s.okMicro_goes m).k, (hs.inProgress i ha).countsWrites, writeCount_take_succ hdrop]

theorem Inv.strobesAlternate_remaining : strobesAlternate (m :: l) = true := by
  rw [← hrem, State.remaining_of_active ha]
  exact strobesAlternate_drop (program_strobesAlternate s.cfg (hs.inProgress i ha).isRequest) s.pc

/-- Once a write is made the enable line is in step with the list, whatever the receiver knows. -/
theorem Inv.okMicro_strobe (hk : 0 < (s.okMicro m).k) :
    lineHigh (s.okMicro m).latch (enMask s.cfg) = strobeDue l := by
  refine State.okMicro_strobe (hs.strobesAlternate_remaining ha hrem) (fun hw => ?_)
  rw [← hrem]
  refine (hs.inProgress i ha).strobe ?_
  simpa [(s.okMicro_goes m).k, hw] using hk

/-- After the micro-step the receiver is UNKNOWN as before, or it is in phase. -/
theorem Inv.okMicro_rx :
    ((s.okMicro m).rx = .unknown ∧ s.rx = .unknown ∧ (i = .init → s.pc < 19)) ∨
    (rxInPhase (s.okMicro m).rx l ∧ lineHigh (s.okMicro m).latch (enMask s.cfg) = strobeDue l ∧
      (i = .init → 19 ≤ s.pc)) := by
  rcases hs.rx_cases ha hrem with ⟨hr, hm, hpc⟩ | ⟨rfl, hpc, rfl, rfl⟩ | ⟨hr, hp, hpc⟩
  · exact .inl ⟨State.okMicro_rx_unknown hm hr, hr, hpc⟩
  · obtain ⟨-, hk⟩ := hs.okMicro_counts ha hrem
    have hk8 : (s.okMicro (.sleepReady .edge)).k = 8 := by rw [hk, hpc]; rfl
    exact .inr ⟨(rxInPhase_of_none (programSteps_fromBoundary s.cfg).low).mpr rfl,
      hs.okMicro_strobe ha hrem (by omega), fun _ => Nat.le_of_eq hpc.symm⟩
  · have hstrobe := hs.knownStrobe hr
    have hphase := hs.knownPhase hr
    rw [hrem] at hstrobe hphase
    exact .inr ⟨State.okMicro_phase hp hstrobe hphase,
      State.okMicro_strobe (hs.strobesAlternate_remaining ha hrem) (fun _ => hstrobe),
      fun h => Nat.le_of_succ_le (hpc h)⟩

/-- After a micro-step that goes on the request is in progress as it must be, one micro-step on. -/
theorem Inv.okMicro_inProgress (hm : s.micro m = .going (s.okMicro m)) : InProgress (s.okMicro m) i := by
  have hi := hs.inProgress i ha
  have keeps : Keeps s (s.okMicro m) := by simpa only [hm, Progress.state] using s.micro_keeps m
  have goes := s.okMicro_goes m
  obtain ⟨-, hrem'⟩ := State.micro_going_remaining (by simp [State.busy, ha]) hrem hm
  have hpc' : (s.okMicro m).pc = s.pc + 1 := goes.pc
  obtain ⟨hlt, hcount⟩ := hs.okMicro_counts ha hrem
  have hrx := hs.okMicro_rx ha hrem
  exact
    { isRequest := hi.isRequest
      wellFormed := hi.wellFormed
      opcode := keeps.op.trans hi.opcode
      pcInList := by rw [keeps.cfg, hpc']; exact hlt
      countsWrites := by rw [keeps.cfg, hpc', hcount]
      initUnsynced := fun h => by rw [keeps.initDone, goes.synced]; exact hi.initUnsynced h
      initUnknown := fun h hpc => by
        rcases hrx with ⟨hu, -, -⟩ | ⟨-, -, h19⟩
        · exact hu
        · exact absurd (h19 h) (by omega)
      initReady := fun h hpc => by
        rcases hrx with ⟨-, -, h19⟩ | ⟨hphase, -, -⟩
        · exact absurd (h19 h) (by omega)
        · exact rxInPhase_ne_unknown hphase
      strobe := fun hk => by rw [keeps.cfg, hrem']; exact hs.okMicro_strobe ha hrem hk }

end

/-- A micro-step that goes on keeps the invariant. -/
theorem Inv.okMicro {s : State} {m : Micro} {l : List Micro} (hs : Inv s) (hb : s.busy = true)
    (hrem : s.remaining = m :: l) (hm : s.micro m = .going (s.okMicro m)) : Inv (s.okMicro m) := by
  obtain ⟨i, ha⟩ := Option.isSome_iff_exists.mp hb
  have keeps : Keeps s (s.okMicro m) := by simpa only [hm, Progress.state] using s.micro_keeps m
  obtain ⟨hb', hrem'⟩ := State.micro_going_remaining hb hrem hm
  have ha' : (s.okMicro m).active = some i := (s.okMicro_goes m).active.trans ha
  have hi := hs.okMicro_inProgress ha hrem hm
  obtain ⟨hlen, hwrites⟩ := program_bounds (s.okMicro m).cfg hi.isRequest hi.wellFormed
  have hrx := hs.okMicro_rx ha hrem
  have hknown : (s.okMicro m).rx ≠ .unknown →
      lineHigh (s.okMicro m).latch (enMask s.cfg) = strobeDue l ∧ rxInPhase (s.okMicro m).rx l := by
    intro hne
    rcases hrx with ⟨hu, -, -⟩ | ⟨hphase, hstrobe, -⟩
    · exact absurd hu hne
    · exact ⟨hstrobe, hphase⟩
  exact
    { validCfg := by rw [keeps.cfg]; exact hs.validCfg
      noTransportWord := keeps.xport.trans hs.noTransportWord
      pcFits := Nat.le_trans hi.pcInList hlen
      kFits := by rw [hi.countsWrites]; exact Nat.le_trans (writeCount_take_le _ _) hwrites
      idleCopy := fun h => absurd (hb'.symm.trans h) (by decide)
      optimisticCopy := fun h => State.okMicro_copies (keeps.cfg ▸ h) (hs.optimisticCopy (keeps.cfg ▸ h))
      syncedInit := fun h => keeps.initDone.trans (hs.syncedInit (keeps.synced h))
      syncedKnown := fun h hu => by
        rcases hrx with ⟨-, hu', -⟩ | ⟨hphase, -, -⟩
        · exact hs.syncedKnown (keeps.synced h) hu'
        · exact rxInPhase_ne_unknown hphase hu
      inProgress := fun j hj => Option.some.inj (ha'.symm.trans hj) ▸ hi
      knownStrobe := fun h => by rw [keeps.cfg, hrem']; exact (hknown h).1
      knownPhase := fun h => by rw [hrem']; exact (hknown h).2 }

theorem State.remaining_of_idle {s : State} (h : s.active = none) : s.remaining = [] := by
  simp only [State.remaining, h]

/-- What a failure at a write needs of the state it finds is no more than `Inv`'s bounds and copies. -/
theorem State.transportFailure_inv {s : State} (b : Byte) (hcfg : cfgValid s.cfg = true) (hx : s.xport = none)
    (hpc : s.pc ≤ 72) (hk : s.k ≤ 36) (hw : s.cfg.policy = .optimistic → s.w = s.sh) :
    Inv (s.transportFailure b) where
  validCfg := hcfg
  noTransportWord := hx
  pcFits := hpc
  kFits := hk
  idleCopy := fun _ => by
    rw [State.transportFailure_w, State.transportFailure_sh]
    cases hp : s.cfg.policy with
    | confirmed => rfl
    | optimistic => exact hw hp
  optimisticCopy := fun hp => by
    rw [State.transportFailure_w, State.transportFailure_sh]
    rw [State.transportFailure_cfg] at hp
    rw [hp]
    exact hw hp
  syncedInit := fun h => absurd h (by simp)
  syncedKnown := fun h => absurd h (by simp)
  inProgress := fun _ h => absurd h (by simp)
  knownStrobe := fun h => absurd rfl h
  knownPhase := fun h => absurd rfl h

/-- A micro-step that ends the request is a write the bus failed; the failure of R244 finds it issued, and
landed or not. -/
theorem State.micro_aborted {s t : State} {m : Micro} (h : s.micro m = .aborted t) :
    ∃ x b u, m = .write x ∧ s.answerAt 0 ≠ .ok ∧ t = u.transportFailure b ∧
      (u = (s.emit (.wr s.cfg.addr b)).takeAnswer ∨ u = (s.emit (.wr s.cfg.addr b)).takeAnswer.land b) := by
  by_cases hok : m.isWrite = true → s.answerAt 0 = .ok
  · rw [State.micro_ok hok] at h
    cases h
  · obtain ⟨hw, ha⟩ := Classical.not_imp.mp hok
    cases m with
    | write x =>
      rcases State.micro_fail (x := x) ha with ⟨-, hm⟩ | ⟨-, hm⟩ <;> rw [hm] at h <;> cases h
      · exact ⟨x, _, _, rfl, ha, rfl, .inl rfl⟩
      · exact ⟨x, _, _, rfl, ha, rfl, .inr rfl⟩
    | _ => exact absurd hw (by simp [Micro.isWrite])

/-- A failed write keeps the invariant (60_exceptions.md R244). -/
theorem Inv.aborted {s t : State} {m : Micro} (hs : Inv s) (hm : s.micro m = .aborted t) : Inv t := by
  obtain ⟨_, b, u, -, -, rfl, hu⟩ := State.micro_aborted hm
  rcases hu with rfl | rfl
  · exact State.transportFailure_inv b hs.validCfg hs.noTransportWord hs.pcFits hs.kFits hs.optimisticCopy
  · exact State.transportFailure_inv b (by simpa using hs.validCfg) (by simpa using hs.noTransportWord)
      (by simpa using hs.pcFits) (by simpa using hs.kFits) (by simpa using hs.optimisticCopy)

/-- The end of the list keeps the invariant (R242). -/
theorem Inv.complete {s : State} (hs : Inv s) (hrem : s.remaining = []) : Inv s.complete where
  validCfg := hs.validCfg
  noTransportWord := hs.noTransportWord
  pcFits := hs.pcFits
  kFits := hs.kFits
  idleCopy := fun _ => by
    rw [State.complete_sh, State.complete_w]
    cases hp : s.cfg.policy with
    | confirmed => rfl
    | optimistic => exact hs.optimisticCopy hp
  optimisticCopy := fun hp => by
    rw [State.complete_cfg] at hp
    rw [State.complete_sh, State.complete_w, hp]
    exact hs.optimisticCopy hp
  syncedInit := fun h => by
    rw [State.complete_synced, Bool.or_eq_true] at h
    rw [State.complete_initDone, Bool.or_eq_true]
    exact h.imp_left hs.syncedInit
  syncedKnown := fun h => by
    rw [State.complete_synced, Bool.or_eq_true, beq_iff_eq] at h
    rw [State.complete_rx]
    rcases h with h | h
    · exact hs.syncedKnown h
    · have hi := hs.inProgress _ h
      refine hi.initReady rfl ?_
      rw [State.remaining_of_active h, List.drop_eq_nil_iff] at hrem
      exact Nat.le_trans (by rw [length_program_init]; decide) hrem
  inProgress := fun _ h => absurd h (by simp)
  knownStrobe := fun h => by
    rw [State.remaining_of_idle s.complete_active, ← hrem]
    exact hs.knownStrobe h
  knownPhase := fun h => by
    rw [State.remaining_of_idle s.complete_active, ← hrem]
    exact hs.knownPhase h

/-- Every step inside a request keeps the invariant. -/
theorem Inv.advance {s : State} (hs : Inv s) (hb : s.busy = true) : Inv s.advance := by
  cases hrem : s.remaining with
  | nil => rw [State.advance_of_remaining_nil hb hrem]; exact hs.complete hrem
  | cons m l =>
    rw [State.advance_of_remaining_cons hb hrem]
    cases hm : s.micro m with
    | going t =>
      obtain ⟨rfl, -⟩ := State.micro_going hm
      exact hs.okMicro hb hrem hm
    | aborted t => exact hs.aborted hm

/-- So does running the rest of a request at once. -/
theorem Inv.runMicros {l : List Micro} {s : State} (hs : Inv s) (hb : s.busy = true) (hrem : s.remaining = l) :
    Inv (s.runMicros l).settle := by
  have hadv := hs.advance hb
  induction l generalizing s with
  | nil => rwa [State.advance_of_remaining_nil hb hrem] at hadv
  | cons m l ih =>
    rw [State.advance_of_remaining_cons hb hrem] at hadv
    rw [State.runMicros_cons]
    cases hm : s.micro m with
    | going t =>
      rw [hm] at hadv
      obtain ⟨hb', hrem'⟩ := State.micro_going_remaining hb hrem hm
      exact ih hadv hb' hrem' (Inv.advance hadv hb')
    | aborted t => rwa [hm] at hadv

/-- Acceptance in an idle block gives the request in progress its invariant (R36, 41_init.md R170). -/
theorem Inv.accept {s : State} {i : Instr} (hs : Inv s) (hb : s.busy = false) (hr : i.isRequest = true)
    (hw : i.WellFormed) : Inv (s.accept i) where
  validCfg := by rw [State.accept_cfg]; exact hs.validCfg
  noTransportWord := by rw [State.accept_xport]; exact hs.noTransportWord
  pcFits := by simp
  kFits := by simp
  idleCopy := fun _ => by simp
  optimisticCopy := fun _ => by simp
  syncedInit := fun h => by
    by_cases hi : i = .init
    · simp [hi] at h
    · simp only [State.accept_synced, State.accept_initDone, if_neg hi] at h ⊢
      exact hs.syncedInit h
  syncedKnown := fun h => by
    by_cases hi : i = .init
    · simp [hi] at h
    · simp only [State.accept_synced, State.accept_rx, if_neg hi] at h ⊢
      exact hs.syncedKnown h
  inProgress := fun j hj => by
    obtain rfl : i = j := Option.some.inj ((State.accept_active s i).symm.trans hj)
    exact
      { isRequest := hr, wellFormed := hw, opcode := State.accept_op s i
        pcInList := by simp, countsWrites := by simp
        initUnsynced := fun hi => by simp [hi]
        initUnknown := fun hi _ => by simp [hi]
        initReady := fun _ h => absurd h (by simp)
        strobe := fun h => absurd h (by simp) }
  knownStrobe := fun h => by
    have hi : i ≠ .init := fun hi => by simp [hi] at h
    rw [State.accept_rx, if_neg hi] at h
    have hk := hs.knownStrobe h
    rw [State.remaining_of_idle (s.busy_false_iff.mp hb)] at hk
    rw [State.accept_remaining, State.accept_latch, State.accept_cfg, hk,
      (program_fromBoundary s.cfg hr hi).strobe]
    rfl
  knownPhase := fun h => by
    have hi : i ≠ .init := fun hi => by simp [hi] at h
    rw [State.accept_rx, if_neg hi] at h ⊢
    have hk := hs.knownPhase h
    rw [State.remaining_of_idle (s.busy_false_iff.mp hb)] at hk
    rw [State.accept_remaining]
    exact (rxInPhase_congr (program_fromBoundary s.cfg hr hi).low).mpr hk

/-- The invariant does not speak of the port or of REFUSED. -/
theorem Inv.of_port_refused {s : State} (hs : Inv s) (words : List Word) (r : Bool) :
    Inv { s with port := words, refused := r } :=
  { hs with inProgress := fun i hi => { hs.inProgress i hi with } }

/-- Performing a well-formed request keeps the invariant. -/
theorem Inv.exec {s t : State} {i : Instr} (hs : Inv s) (hr : i.isRequest = true) (hw : i.WellFormed)
    (h : exec i s = .next t) : Inv t := by
  have hrun (hb : s.busy = false) : Inv ((s.accept i).runMicros (program s.cfg i)).settle :=
    (hs.accept hb hr hw).runMicros (by simp [State.busy]) (s.accept_remaining i)
  rcases exec_request_cases hr h with ⟨-, rfl⟩ | ⟨hb, u, hu, rfl⟩ | ⟨hb, hu⟩
  · exact hs
  · simpa only [hu, Progress.settle] using hrun hb
  · simpa only [hu, Progress.settle] using hrun hb

/-- What the table of the operand-free requests answers. -/
theorem decodeR0_wellFormed {q : Word} {i : Instr} (h : decodeR0 q = .ok i) : i.isRequest = true ∧ i.WellFormed := by
  simp only [decodeR0] at h
  split at h
  next j hj =>
    obtain ⟨-, hr, hw, -⟩ := r0Table_spec hj
    split at h <;> cases h
    exact ⟨hr, hw⟩
  next => cases h

/-- What the port's decoder answers is a request, and well-formed (30_encoding.md R105 to R107). -/
theorem decodeRequest_wellFormed {q : Word} {payload : List Word} {i : Instr}
    (h : decodeRequest q payload = .ok i) : i.isRequest = true ∧ i.WellFormed := by
  simp only [decodeRequest] at h
  split at h
  · split at h
    · split at h <;> cases h
      exact ⟨rfl, rfl⟩
    · cases h
  · split at h
    · cases h
    · split at h
      · cases h; exact ⟨rfl, rfl⟩
      · split at h
        · split at h <;> cases h
          exact ⟨rfl, rfl⟩
        · exact decodeR0_wellFormed h

/-- The next state of a step: one move of the request in progress, the same state, or the code taken from
the transport latch or the port executed or refused. -/
theorem step_next_cases {s t : State} (h : step s = .next t) :
    (s.busy = true ∧ t = s.advance) ∨ t = s ∨
    ∃ c u, ((∃ w, c = .transport w ∧ s.xport = some w ∧ u = { s with xport := none }) ∨
        ∃ q payload rest, c = .request q payload ∧ u = { s with port := rest }) ∧
      ((∃ i, decode c = .ok i ∧ exec i u = .next t) ∨ t = u.refuse) := by
  rcases step_cases s with ⟨hb, hs⟩ | ⟨-, -, -, hs⟩ | ⟨c, u, -, hu, hrun⟩
  · rw [hs] at h
    injection h with h
    exact .inl ⟨hb, h.symm⟩
  · rw [hs] at h
    injection h with h
    exact .inr (.inl h.symm)
  · refine .inr (.inr ⟨c, u, hu.imp id ?_, hrun.imp ?_ ?_⟩)
    · rintro ⟨q, payload, rest, hc, -, -, hu⟩
      exact ⟨q, payload, rest, hc, hu⟩
    · rintro ⟨i, hdec, hs⟩
      exact ⟨i, hdec, hs.symm.trans h⟩
    · rintro ⟨_, -, hs⟩
      rw [hs] at h
      injection h with h
      exact h.symm

/-- Settles O15: inside a request by the sequencer's one move, from the port by a whole request at once. -/
theorem stepKeepsInvariant : Obligations.StepKeepsInvariant := by
  intro s t hs h
  rcases step_next_cases h with ⟨hb, rfl⟩ | rfl | ⟨c, u, hu, hrun⟩
  · exact hs.advance hb
  · exact hs
  · rcases hu with ⟨w, -, hw, -⟩ | ⟨q, payload, rest, rfl, rfl⟩
    · exact absurd (hw.symm.trans hs.noTransportWord) (by simp)
    · rcases hrun with ⟨i, hdec, hexec⟩ | rfl
      · obtain ⟨hr, hw⟩ := decodeRequest_wellFormed hdec
        exact (hs.of_port_refused rest s.refused).exec hr hw hexec
      · exact hs.of_port_refused rest true

/-! ## PC and the response -/

/-- What a failing write leaves: no request, the failure in STATUS, and one response after the write's event
(60_exceptions.md R244). -/
theorem State.micro_aborted_response {s t : State} {m : Micro} (h : s.micro m = .aborted t) :
    t.active = none ∧ t.status.code = .transportFailure ∧
      ∃ b, t.trace = s.trace ++ [.wr s.cfg.addr b] ++ [.resp t.status] := by
  obtain ⟨_, b, u, -, -, rfl, hu⟩ := State.micro_aborted h
  refine ⟨rfl, rfl, b, ?_⟩
  rcases hu with rfl | rfl <;> simp

/-- Settles O11: the sequencer's move at the micro-step PC points at, or at the end of the list. -/
theorem pcAdvancesByOne : Obligations.PcAdvancesByOne := by
  refine ⟨State.accept_pc, fun s i ha => ⟨s.advance, step_active ha, ?_⟩⟩
  cases hm : (program s.cfg i)[s.pc]? with
  | none =>
    have hadv : s.advance = s.complete := by simp only [State.advance, ha, hm]
    simp only [hadv, State.complete_active, State.complete_status, State.complete_trace, State.complete_initDone,
      State.complete_synced, State.complete_sh, ha]
    cases s.cfg.policy <;> simp [okStatus]
  | some m =>
    have hadv : s.advance = (s.micro m).state := by simp only [State.advance, ha, hm]
    simp only [hadv]
    split
    next hfail =>
      cases hp : s.micro m with
      | going t => exact absurd ((State.micro_going hp).2 hfail.1) hfail.2
      | aborted t =>
        obtain ⟨hactive, hcode, -⟩ := State.micro_aborted_response hp
        exact ⟨hactive, hcode⟩
    next hfail =>
      rw [State.micro_ok (fun hw => Classical.byContradiction fun hne => hfail ⟨hw, hne⟩)]
      exact ⟨(s.okMicro_goes m).active.trans ha, (s.okMicro_goes m).pc⟩

/-- A run ended by a failing write leaves one response, its last event. -/
theorem State.runMicros_aborted_response {s t : State} {l : List Micro} (h : s.runMicros l = .aborted t) :
    t.active = none ∧ ∃ ev, t.trace = s.trace ++ ev ++ [.resp t.status] ∧ ∀ e ∈ ev, e.isResp = false := by
  obtain ⟨before, x, rest, u, -, hu, -, hx⟩ := State.runMicros_aborted h
  obtain ⟨ev, hev, hno⟩ := (State.runMicros_going hu).1.events
  obtain ⟨hactive, -, b, hb⟩ := State.micro_aborted_response hx
  refine ⟨hactive, ev ++ [.wr u.cfg.addr b], by rw [hb, hev, List.append_assoc s.trace], ?_⟩
  intro e he
  rcases List.mem_append.mp he with he | he
  · exact hno e he
  · rw [List.mem_singleton.mp he]; rfl

/-- Settles O14: the response is completion's, or the failing write's. -/
theorem oneResponsePerRequest : Obligations.OneResponsePerRequest := by
  intro i s hr hb
  obtain ⟨t, ht⟩ := exec_next i s
  rcases exec_request_cases hr ht with ⟨hb', -⟩ | ⟨-, u, hu, rfl⟩ | ⟨-, hu⟩
  · exact absurd (hb'.symm.trans hb) (by decide)
  · obtain ⟨ev, hev, hno⟩ := (State.runMicros_going hu).1.events
    rw [State.accept_trace] at hev
    exact ⟨_, ev, ht, rfl, by rw [State.complete_trace, State.complete_status, hev], hno⟩
  · obtain ⟨hactive, ev, hev, hno⟩ := State.runMicros_aborted_response hu
    rw [State.accept_trace] at hev
    exact ⟨t, ev, ht, t.busy_false_iff.mpr hactive, hev, hno⟩

/-! ## The frame of every instruction -/

/-- The trace of `t` is that of `s` and events whose writes all go to ADDR (R38). -/
def WritesToAddr (s t : State) : Prop :=
  ∃ ev, t.trace = s.trace ++ ev ∧ ∀ a b, Event.wr a b ∈ ev → a = s.cfg.addr

theorem WritesToAddr.of_eq {s t : State} (h : t.trace = s.trace) : WritesToAddr s t :=
  ⟨[], by rw [h, List.append_nil], by simp⟩

theorem WritesToAddr.trans {s t u : State} (hc : t.cfg = s.cfg) (h : WritesToAddr s t) (g : WritesToAddr t u) :
    WritesToAddr s u := by
  obtain ⟨e, he, ha⟩ := h
  obtain ⟨f, hf, hb⟩ := g
  refine ⟨e ++ f, by rw [hf, he, List.append_assoc], fun a b hab => ?_⟩
  rcases List.mem_append.mp hab with hab | hab
  · exact ha a b hab
  · exact hc ▸ hb a b hab

theorem State.micro_writesToAddr (s : State) (m : Micro) : WritesToAddr s (s.micro m).state := by
  cases hm : s.micro m with
  | aborted t =>
    obtain ⟨-, -, b, hb⟩ := State.micro_aborted_response hm
    exact ⟨[.wr s.cfg.addr b, .resp t.status], by rw [Progress.state, hb, List.append_assoc]; rfl,
      by simp +contextual⟩
  | going t =>
    obtain ⟨rfl, -⟩ := State.micro_going hm
    cases m with
    | write x =>
      exact ⟨[.wr s.cfg.addr (x.byte s.cfg s.w ||| backlightBit s.cfg s.w.backlightOn)],
        by simp [Progress.state, State.okMicro, State.wrote], by simp +contextual⟩
    | sleep d => exact ⟨[.dly (d.micros s.cfg)], rfl, by simp⟩
    | sleepReady d => exact ⟨[.dly (d.micros s.cfg)], rfl, by simp⟩
    | assign a => exact .of_eq (by simp [Progress.state, State.okMicro])

theorem State.runMicros_writesToAddr (s : State) (l : List Micro) : WritesToAddr s (s.runMicros l).state := by
  induction l generalizing s with
  | nil => exact .of_eq rfl
  | cons m l ih =>
    have hm := s.micro_writesToAddr m
    have hc := (s.micro_keeps m).cfg
    rw [State.runMicros_cons]
    cases h : s.micro m with
    | going t => rw [h] at hm hc; exact hm.trans hc (ih t)
    | aborted t => rw [h] at hm; exact hm

/-- What no instruction and no move of the sequencer writes, what it can only set, and what it does to the
bus and the trace (R28, R30, R36, R38, 60_exceptions.md R247). -/
structure Frame (s t : State) : Prop where
  cfg : t.cfg = s.cfg
  port : t.port = s.port
  xport : t.xport = s.xport
  refused : t.refused = s.refused
  fBeforeInit : s.fBeforeInit = true → t.fBeforeInit = true
  bus : ∃ n, t.bus = s.bus.drop n ∧ t.draws = s.draws + n ∧
    t.trace.countP Event.isWr = s.trace.countP Event.isWr + n
  writes : WritesToAddr s t

theorem Frame.refl (s : State) : Frame s s :=
  ⟨rfl, rfl, rfl, rfl, id, ⟨0, by simp, rfl, rfl⟩, .of_eq rfl⟩

theorem Frame.trans {s t u : State} (h : Frame s t) (g : Frame t u) : Frame s u := by
  obtain ⟨n, n1, n2, n3⟩ := h.bus
  obtain ⟨m, m1, m2, m3⟩ := g.bus
  exact ⟨g.cfg.trans h.cfg, g.port.trans h.port, g.xport.trans h.xport, g.refused.trans h.refused,
    fun hf => g.fBeforeInit (h.fBeforeInit hf), ⟨n + m, by rw [m1, n1, List.drop_drop], by omega, by omega⟩,
    h.writes.trans h.cfg g.writes⟩

theorem Keeps.frame {s t : State} (h : Keeps s t) (hw : WritesToAddr s t) : Frame s t :=
  ⟨h.cfg, h.port, h.xport, h.refused, fun hf => h.fBeforeInit.trans hf, h.bus, hw⟩

theorem State.accept_frame (s : State) (i : Instr) : Frame s (s.accept i) where
  cfg := s.accept_cfg i
  port := s.accept_port i
  xport := s.accept_xport i
  refused := s.accept_refused i
  fBeforeInit := fun h => by simp [h]
  bus := ⟨0, by simp, by simp, by simp⟩
  writes := .of_eq (s.accept_trace i)

theorem State.beginTransport_frame (s : State) : Frame s s.beginTransport where
  cfg := s.beginTransport_cfg
  port := s.beginTransport_port
  xport := s.beginTransport_xport
  refused := s.beginTransport_refused
  fBeforeInit := fun h => by simp [h]
  bus := ⟨0, by simp, by simp, by simp⟩
  writes := .of_eq s.beginTransport_trace

theorem State.complete_frame (s : State) : Frame s s.complete where
  cfg := rfl
  port := rfl
  xport := rfl
  refused := rfl
  fBeforeInit := id
  bus := ⟨0, by simp, by simp, by simp [Event.isWr]⟩
  writes := ⟨[.resp okStatus], rfl, by simp⟩

theorem State.runMicros_frame (s : State) (l : List Micro) : Frame s (s.runMicros l).state :=
  (s.runMicros_keeps l).frame (s.runMicros_writesToAddr l)

theorem State.advance_frame {s : State} (hb : s.busy = true) : Frame s s.advance := by
  cases h : s.remaining with
  | nil => rw [State.advance_of_remaining_nil hb h]; exact s.complete_frame
  | cons m l =>
    rw [State.advance_of_remaining_cons hb h]
    exact (s.micro_keeps m).frame (s.micro_writesToAddr m)

theorem exec_frame {i : Instr} {s t : State} (h : exec i s = .next t) : Frame s t := by
  cases hr : i.isRequest with
  | false =>
    rw [exec_transport_cases hr h]
    exact s.beginTransport_frame.trans (State.runMicros_frame _ _)
  | true =>
    have hrun := (s.accept_frame i).trans ((s.accept i).runMicros_frame (program s.cfg i))
    rcases exec_request_cases hr h with ⟨-, rfl⟩ | ⟨-, u, hu, rfl⟩ | ⟨-, hu⟩
    · exact .refl _
    · rw [hu] at hrun; exact hrun.trans u.complete_frame
    · rw [hu] at hrun; exact hrun

/-- Settles O21. -/
theorem execFrame : Obligations.ExecFrame := by
  intro i s t h
  obtain ⟨hcfg, hport, hxport, hrefused, -, hbus, hwrites⟩ := exec_frame h
  exact ⟨hcfg, hport, hxport, hrefused, hbus, hwrites⟩

/-- Settles O17. -/
theorem configurationNeverWritten : Obligations.ConfigurationNeverWritten := by
  intro s t h
  rcases step_next_cases h with ⟨hb, rfl⟩ | rfl | ⟨c, u, hu, hrun⟩
  · exact (State.advance_frame hb).cfg
  · rfl
  · have htake : u.cfg = s.cfg := by
      rcases hu with ⟨_, -, -, rfl⟩ | ⟨_, _, _, -, rfl⟩ <;> rfl
    rcases hrun with ⟨i, -, hexec⟩ | rfl
    · exact (exec_frame hexec).cfg.trans htake
    · exact htake

/-- Settles O18. -/
theorem stickyMarksNeverCleared : Obligations.StickyMarksNeverCleared := by
  intro s t h
  rcases step_next_cases h with ⟨hb, rfl⟩ | rfl | ⟨c, u, hu, hrun⟩
  · have hframe := State.advance_frame hb
    exact ⟨hframe.fBeforeInit, fun hs => hframe.refused.trans hs⟩
  · exact ⟨id, id⟩
  · have htake : u.fBeforeInit = s.fBeforeInit ∧ u.refused = s.refused := by
      rcases hu with ⟨_, -, -, rfl⟩ | ⟨_, _, _, -, rfl⟩ <;> exact ⟨rfl, rfl⟩
    rw [← htake.1, ← htake.2]
    rcases hrun with ⟨i, -, hexec⟩ | rfl
    · have hframe := exec_frame hexec
      exact ⟨hframe.fBeforeInit, fun hs => hframe.refused.trans hs⟩
    · exact ⟨id, fun _ => rfl⟩

/-- Settles O20: no micro-step sets the two flags, acceptance and completion only INIT's. -/
theorem initFlagsOnlyByInit : Obligations.InitFlagsOnlyByInit := by
  intro i s t hi h
  cases hr : i.isRequest with
  | false =>
    rw [exec_transport_cases hr h]
    have hrun := s.beginTransport.runMicros_keeps (program s.cfg i)
    exact ⟨hrun.initDone.trans s.beginTransport_initDone, fun ht => s.beginTransport_synced ▸ hrun.synced ht⟩
  | true =>
    have hrun := (s.accept i).runMicros_keeps (program s.cfg i)
    have hdone : (s.accept i).initDone = s.initDone := by rw [State.accept_initDone, if_neg hi]
    have hsynced : (s.accept i).synced = s.synced := by rw [State.accept_synced, if_neg hi]
    rcases exec_request_cases hr h with ⟨-, rfl⟩ | ⟨-, u, hu, rfl⟩ | ⟨-, hu⟩
    · exact ⟨rfl, id⟩
    · rw [hu] at hrun
      have hactive : (u.active == some .init) = false := by
        rw [(State.runMicros_going hu).1.active, State.accept_active]
        simpa using hi
      rw [State.complete_initDone, State.complete_synced, hactive, Bool.or_false, Bool.or_false]
      exact ⟨hrun.initDone.trans hdone, fun ht => hsynced ▸ hrun.synced ht⟩
    · rw [hu] at hrun
      exact ⟨hrun.initDone.trans hdone, fun ht => hsynced ▸ hrun.synced ht⟩

/-! ## The shadow register -/

/-- Is the micro-step a shadow assignment (00_scope.md R18)? -/
def Micro.isAssign : Micro → Bool
  | .assign _ => true
  | _ => false

/-- A flag request assigns its one flag, then only writes and waits (R23). -/
theorem program_of_flagAssigned (c : Cfg) {i : Instr} {f : Field} {v : Bool} (h : flagAssigned i = some (f, v)) :
    ∃ l, program c i = .assign [(f, v)] :: l ∧ l.any Micro.isAssign = false := by
  cases i <;> cases h <;> exact ⟨_, rfl, rfl⟩

/-- No instruction but INIT and the flag requests assigns a flag. -/
theorem program_no_assign (c : Cfg) {i : Instr} (h : flagAssigned i = none) (hi : i ≠ .init) :
    (program c i).any Micro.isAssign = false := by
  cases i <;> cases h
  case init => exact absurd rfl hi
  case cgdef slot glyph =>
    have hbyte (v : Byte) (m : Mode) : (sendByte (.lit v) m).any Micro.isAssign = false := rfl
    simp [program, cgdefSteps, List.any_append, List.any_flatMap, hbyte]
  all_goals rfl

theorem isRequest_of_flagAssigned {i : Instr} {p : Field × Bool} (h : flagAssigned i = some p) :
    i.isRequest = true := by
  cases i <;> cases h <;> rfl

theorem State.okMicro_w_sh (s : State) {m : Micro} (h : m.isAssign = false) :
    (s.okMicro m).w = s.w ∧ (s.okMicro m).sh = s.sh := by
  cases m with
  | write x => simp [State.okMicro, State.wrote]
  | sleep d => exact ⟨rfl, rfl⟩
  | sleepReady d => exact ⟨rfl, rfl⟩
  | assign a => cases h

/-- A failed write leaves the shadow register as it finds it (60_exceptions.md R244). -/
theorem State.micro_aborted_sh {s t : State} {m : Micro} (h : s.micro m = .aborted t) : t.sh = s.sh := by
  obtain ⟨_, b, u, -, -, rfl, hu⟩ := State.micro_aborted h
  rcases hu with rfl | rfl <;> simp

/-- A run without assignments leaves the shadow register, and the working copy unless a write fails. -/
theorem State.runMicros_no_assign (s : State) {l : List Micro} (h : l.any Micro.isAssign = false) :
    (s.runMicros l).state.sh = s.sh ∧ ∀ t, s.runMicros l = .going t → t.w = s.w := by
  induction l generalizing s with
  | nil => exact ⟨rfl, fun t ht => by injection ht with ht; rw [ht]⟩
  | cons m l ih =>
    simp only [List.any_cons, Bool.or_eq_false_iff] at h
    rw [State.runMicros_cons]
    cases hm : s.micro m with
    | going u =>
      obtain ⟨rfl, -⟩ := State.micro_going hm
      obtain ⟨hw, hsh⟩ := s.okMicro_w_sh h.1
      obtain ⟨ihsh, ihw⟩ := ih (s.okMicro m) h.2
      exact ⟨ihsh.trans hsh, fun t ht => (ihw t ht).trans hw⟩
    | aborted u => exact ⟨State.micro_aborted_sh hm, fun t ht => by cases ht⟩

/-- A run of one assignment, then none: the shadow register has it as the policy says, and the working copy
has it unless a write fails. -/
theorem State.runMicros_one_assign (s : State) (f : Field) (v : Bool) {l : List Micro}
    (h : l.any Micro.isAssign = false) :
    (s.runMicros (.assign [(f, v)] :: l)).state.sh = (s.assign [(f, v)]).sh ∧
      ∀ t, s.runMicros (.assign [(f, v)] :: l) = .going t → t.w = s.w.set f v := by
  obtain ⟨hsh, hw⟩ := (s.assign [(f, v)]).nextPc.runMicros_no_assign h
  exact ⟨hsh, fun t ht => (hw t ht).trans (s.assign_w [(f, v)])⟩

/-- A flag request that completes leaves the new flag; one that fails leaves it as its commit policy says
(R31, R244). -/
theorem exec_flagAssigned {i : Instr} {f : Field} {v : Bool} {s t : State} (h : flagAssigned i = some (f, v))
    (hb : s.busy = false) (ht : exec i s = .next t) :
    (s.busOk (writeCount (program s.cfg i)) ∧ t.sh = s.sh.set f v) ∨
    (s.cfg.policy = .optimistic ∧ t.sh = s.sh.set f v) ∨ (s.cfg.policy = .confirmed ∧ t.sh = s.sh) := by
  obtain ⟨l, hl, hno⟩ := program_of_flagAssigned s.cfg h
  obtain ⟨hsh, hw⟩ := (s.accept i).runMicros_one_assign f v hno
  rw [← hl] at hsh hw
  have hassign : (s.cfg.policy = .optimistic ∧ ((s.accept i).assign [(f, v)]).sh = s.sh.set f v) ∨
      (s.cfg.policy = .confirmed ∧ ((s.accept i).assign [(f, v)]).sh = s.sh) := by
    cases hp : s.cfg.policy <;> simp [State.assign_sh, hp, Shadow.assign]
  rcases exec_request_cases (isRequest_of_flagAssigned h) ht with ⟨hb', -⟩ | ⟨-, u, hu, rfl⟩ | ⟨-, hu⟩
  · exact absurd (hb'.symm.trans hb) (by decide)
  · have hok : s.busOk (writeCount (program s.cfg i)) :=
      State.busOk_congr (s.accept_bus i).symm (s.accept_draws i).symm (State.runMicros_going hu).2
    have hcfg := ((s.accept i).runMicros_keeps (program s.cfg i)).cfg
    rw [hu] at hsh hcfg
    have hpolicy : u.cfg.policy = s.cfg.policy := congrArg Cfg.policy (hcfg.trans (s.accept_cfg i))
    refine .inl ⟨hok, ?_⟩
    rw [State.complete_sh, hpolicy]
    rcases hassign with ⟨hp, he⟩ | ⟨hp, -⟩
    · rw [hp]; exact hsh.trans he
    · rw [hp]; exact (hw u hu).trans (congrArg (Shadow.set · f v) (s.accept_w i))
  · rw [hu] at hsh
    exact .inr (hassign.imp (And.imp_right hsh.trans) (And.imp_right hsh.trans))

/-- An instruction that assigns no flag leaves the shadow register (R23). -/
theorem exec_sh_of_no_assign {i : Instr} {s t : State} (h : flagAssigned i = none) (hi : i ≠ .init)
    (ht : exec i s = .next t) : t.sh = s.sh := by
  have hno := program_no_assign s.cfg h hi
  cases hr : i.isRequest with
  | false =>
    rw [exec_transport_cases hr ht]
    exact (s.beginTransport.runMicros_no_assign hno).1.trans s.beginTransport_sh
  | true =>
    obtain ⟨hsh, hw⟩ := (s.accept i).runMicros_no_assign hno
    rcases exec_request_cases hr ht with ⟨-, rfl⟩ | ⟨-, u, hu, rfl⟩ | ⟨-, hu⟩
    · rfl
    · rw [hu] at hsh
      rw [State.complete_sh]
      cases u.cfg.policy with
      | confirmed => exact (hw u hu).trans (s.accept_w i)
      | optimistic => exact hsh.trans (s.accept_sh i)
    · rw [hu] at hsh
      exact hsh.trans (s.accept_sh i)

/-- Settles O55: the failing case of a flag request. -/
theorem commitPolicyOnFailure : Obligations.CommitPolicyOnFailure := by
  intro i f v s t h hb hfail ht
  rcases exec_flagAssigned h hb ht with ⟨hok, -⟩ | ⟨hp, hsh⟩ | ⟨hp, hsh⟩
  · exact absurd hok hfail
  · exact ⟨fun _ => hsh, fun hp' => absurd (hp.symm.trans hp') (by decide)⟩
  · exact ⟨fun hp' => absurd (hp.symm.trans hp') (by decide), fun _ => hsh⟩

/-- Settles O22: an instruction other than INIT sets the one flag it assigns, or none. -/
theorem shadowWrittenOnlyByItsRequests : Obligations.ShadowWrittenOnlyByItsRequests := by
  intro i s t ht
  by_cases hi : i = .init
  · simp [hi]
  have hsh : t.sh = s.sh ∨ ∃ f v, flagAssigned i = some (f, v) ∧ t.sh = s.sh.set f v := by
    cases hf : flagAssigned i with
    | none => exact .inl (exec_sh_of_no_assign hf hi ht)
    | some p =>
      cases hb : s.busy with
      | true =>
        rw [exec_request s (isRequest_of_flagAssigned hf), performRequest_busy hb] at ht
        injection ht with ht
        exact .inl (ht ▸ rfl)
      | false =>
        rcases exec_flagAssigned hf hb ht with ⟨-, h⟩ | ⟨-, h⟩ | ⟨-, h⟩
        · exact .inr ⟨_, _, rfl, h⟩
        · exact .inr ⟨_, _, rfl, h⟩
        · exact .inl h
  rcases hsh with h | ⟨f, v, hf, h⟩
  · simp [h]
  · cases i <;> cases hf <;> simp [h, Shadow.set]

/-! ## The display is never read -/

/-- Two states that differ in P, RX and XFERS alone (R27). -/
def SameButDisplay (s t : State) : Prop := ∃ p r x, t = { s with latch := p, rx := r, xfers := x }

theorem SameButDisplay.refl (s : State) : SameButDisplay s s := ⟨s.latch, s.rx, s.xfers, rfl⟩

theorem SameButDisplay.symm {s t : State} (h : SameButDisplay s t) : SameButDisplay t s := by
  obtain ⟨p, r, x, rfl⟩ := h
  exact ⟨s.latch, s.rx, s.xfers, rfl⟩

theorem SameButDisplay.trans {s t u : State} (h : SameButDisplay s t) (g : SameButDisplay t u) :
    SameButDisplay s u := by
  obtain ⟨p, r, x, rfl⟩ := h
  obtain ⟨p', r', x', rfl⟩ := g
  exact ⟨p', r', x', rfl⟩

/-- A byte that lands changes the display's items alone (20_memory.md R66, R70). -/
theorem State.land_sameButDisplay (s : State) (b : Byte) : SameButDisplay s (s.land b) := by
  unfold State.land State.receive
  split
  · exact ⟨b, .unknown, s.xfers, rfl⟩
  · split
    · rw [State.latchNibble_eq]
      exact ⟨b, _, _, rfl⟩
    · exact ⟨b, s.rx, s.xfers, rfl⟩

/-- Two operations that have come equally far, in states that differ in the display's items alone. -/
inductive Progress.SameButDisplay : Progress → Progress → Prop where
  | going {s t : State} (h : Machine.SameButDisplay s t) : SameButDisplay (.going s) (.going t)
  | aborted {s t : State} (h : Machine.SameButDisplay s t) : SameButDisplay (.aborted s) (.aborted t)

section
variable {s t : State} (h : SameButDisplay s t)
include h

theorem State.land_congr_display (b : Byte) : SameButDisplay (s.land b) (t.land b) :=
  ((s.land_sameButDisplay b).symm.trans h).trans (t.land_sameButDisplay b)

theorem State.issued_congr_display (b : Byte) :
    SameButDisplay (s.emit (.wr s.cfg.addr b)).takeAnswer (t.emit (.wr t.cfg.addr b)).takeAnswer := by
  obtain ⟨p, r, x, rfl⟩ := h
  exact ⟨p, r, x, rfl⟩

theorem State.transportFailure_congr_display (b : Byte) :
    SameButDisplay (s.transportFailure b) (t.transportFailure b) := by
  obtain ⟨p, r, x, rfl⟩ := h
  exact ⟨p, .unknown, x, rfl⟩

theorem State.complete_congr_display : SameButDisplay s.complete t.complete := by
  obtain ⟨p, r, x, rfl⟩ := h
  exact ⟨p, r, x, rfl⟩

theorem State.nextPc_congr_display : SameButDisplay s.nextPc t.nextPc := by
  obtain ⟨p, r, x, rfl⟩ := h
  exact ⟨p, r, x, rfl⟩

theorem State.assign_congr_display (a : List (Field × Bool)) : SameButDisplay (s.assign a) (t.assign a) := by
  obtain ⟨p, r, x, rfl⟩ := h
  refine ⟨p, r, x, ?_⟩
  unfold State.assign
  cases s.cfg.policy <;> rfl

theorem State.accept_congr_display (i : Instr) : SameButDisplay (s.accept i) (t.accept i) := by
  obtain ⟨p, r, x, rfl⟩ := h
  unfold State.accept
  dsimp only
  split
  · exact ⟨p, .unknown, x, rfl⟩
  · exact ⟨p, r, x, rfl⟩

theorem State.beginTransport_congr_display : SameButDisplay s.beginTransport t.beginTransport := by
  obtain ⟨p, r, x, rfl⟩ := h
  unfold State.beginTransport
  rw [show State.busy { s with latch := p, rx := r, xfers := x } = s.busy from rfl]
  cases s.busy <;> exact ⟨p, r, x, rfl⟩

theorem State.memWrite_congr_display (b : Byte) : (s.memWrite b).SameButDisplay (t.memWrite b) := by
  have hissued := State.issued_congr_display h b
  have hlanded := State.land_congr_display hissued b
  obtain ⟨p, r, x, ht⟩ := h
  have hanswer : t.answerAt 0 = s.answerAt 0 := by rw [ht]; rfl
  have hk : t.k = s.k := by rw [ht]
  unfold State.memWrite
  rw [hanswer]
  cases s.answerAt 0 with
  | ok =>
    obtain ⟨p, r, x, e⟩ := hlanded
    exact .going ⟨p, r, x, by rw [e, hk]⟩
  | failOld => exact .aborted (State.transportFailure_congr_display hissued b)
  | failLanded => exact .aborted (State.transportFailure_congr_display hlanded b)

theorem State.micro_congr_display (m : Micro) : (s.micro m).SameButDisplay (t.micro m) := by
  cases m with
  | write x =>
    have hbyte : t.cfg = s.cfg ∧ t.w = s.w := by
      obtain ⟨p, r, y, rfl⟩ := h
      exact ⟨rfl, rfl⟩
    simp only [State.micro, State.expanderWrite, hbyte]
    have hwrite := State.memWrite_congr_display h (x.byte s.cfg s.w ||| backlightBit s.cfg s.w.backlightOn)
    generalize s.memWrite _ = a, t.memWrite _ = b at hwrite ⊢
    cases hwrite with
    | going h => exact .going (State.nextPc_congr_display h)
    | aborted h => exact .aborted h
  | sleep d => obtain ⟨p, r, x, rfl⟩ := h; exact .going ⟨p, r, x, rfl⟩
  | sleepReady d => obtain ⟨p, r, x, rfl⟩ := h; exact .going ⟨p, .hi, x, rfl⟩
  | assign a => exact .going (State.nextPc_congr_display (State.assign_congr_display h a))

end

theorem State.runMicros_congr_display {s t : State} (h : SameButDisplay s t) (l : List Micro) :
    (s.runMicros l).SameButDisplay (t.runMicros l) := by
  induction l generalizing s t with
  | nil => exact .going h
  | cons m l ih =>
    have hm := State.micro_congr_display h m
    rw [State.runMicros_cons, State.runMicros_cons]
    generalize s.micro m = a, t.micro m = b at hm ⊢
    cases hm with
    | going h => exact ih h
    | aborted h => exact .aborted h

/-- However an operation ends, the two states it leaves differ in the display's items alone. -/
theorem Progress.SameButDisplay.ends {a b : Progress} (h : a.SameButDisplay b) :
    Machine.SameButDisplay a.state b.state ∧ Machine.SameButDisplay a.settle b.settle := by
  cases h with
  | going h => exact ⟨h, State.complete_congr_display h⟩
  | aborted h => exact ⟨h, h⟩

theorem exec_congr_display {s s' : State} (h : SameButDisplay s s') (i : Instr) :
    ∃ t t', exec i s = .next t ∧ exec i s' = .next t' ∧ SameButDisplay t t' := by
  obtain ⟨hcfg, hbusy⟩ : s'.cfg = s.cfg ∧ s'.busy = s.busy := by
    obtain ⟨p, r, x, rfl⟩ := h
    exact ⟨rfl, rfl⟩
  cases hr : i.isRequest with
  | false =>
    have hrun := State.runMicros_congr_display (State.beginTransport_congr_display h) (program s.cfg i)
    exact ⟨_, _, exec_transport s hr, exec_transport s' hr, hcfg ▸ hrun.ends.1⟩
  | true =>
    rw [exec_request s hr, exec_request s' hr, hcfg]
    cases hb : s.busy with
    | true => exact ⟨s, s', performRequest_busy hb, performRequest_busy (hbusy.trans hb), h⟩
    | false =>
      have hrun := State.runMicros_congr_display (State.accept_congr_display h i) (program s.cfg i)
      exact ⟨_, _, performRequest_idle hb, performRequest_idle (hbusy.trans hb), hrun.ends.2⟩

/-- Settles O23: no micro-step, acceptance or completion tells two such states apart. -/
theorem displayNeverRead : Obligations.DisplayNeverRead := by
  intro i s p r x
  obtain ⟨t, t', ht, ht', p', r', x', rfl⟩ := exec_congr_display (s := s) ⟨p, r, x, rfl⟩ i
  exact ⟨t, _, ht, ht', rfl⟩

/-! ## Fetching and waiting -/

/-- Settles O7: a request that decodes has the number of words its opcode says. -/
theorem stepRunsDecodedRequest : Obligations.StepRunsDecodedRequest := by
  intro s q payload rest i hb hx hport hdec
  have hfetch : fetchRequest s.port = .request q payload rest :=
    hport ▸ fetchRequest_cons q payload rest (decodeRequest_length hdec)
  simp only [step, hb, hx, hfetch, runCode, hdec]

/-- Settles O9. -/
theorem idleBlockWaits : Obligations.IdleBlockWaits := by
  intro s hb hx hport
  have hfetch : fetchRequest s.port = .nothing := by
    rcases hport with h | ⟨q, rest, h, hop, hlen⟩
    · rw [h]; rfl
    · have hpay : payloadLength q = 2 := if_pos hop
      rw [h, fetchRequest, hpay, if_neg (Nat.not_le.mpr hlen)]
  simp only [step, hb, hx, hfetch]

/-- Settles O10. -/
theorem busyPortHoldsHost : Obligations.BusyPortHoldsHost := by
  refine ⟨fun i s hr hb => by rw [exec_request s hr, performRequest_busy hb], fun s t hb h => ?_⟩
  rw [step_busy hb] at h
  injection h with h
  exact h ▸ (State.advance_frame hb).port

/-! ## Construction -/

theorem inv_fresh (c : Cfg) (p : Byte) (hc : cfgValid c = true) : Inv (State.fresh c p) where
  validCfg := hc
  noTransportWord := rfl
  pcFits := Nat.zero_le _
  kFits := Nat.zero_le _
  idleCopy := fun _ => rfl
  optimisticCopy := fun _ => rfl
  syncedInit := fun h => nomatch h
  syncedKnown := fun h => nomatch h
  inProgress := fun _ h => nomatch h
  knownStrobe := fun h => absurd rfl h
  knownPhase := fun h => absurd rfl h

/-- Settles O16. -/
theorem constructionHasInvariant : Obligations.ConstructionHasInvariant :=
  ⟨inv_fresh, inv_fresh _ _ (by decide)⟩

/-- Settles O57. -/
theorem constructionResult : Obligations.ConstructionResult := by
  refine ⟨fun c p s hrows => ?_, fun c p s hrows => ?_⟩
  · have hfresh : construct c p s = State.fresh c p := if_neg hrows
    rw [hfresh]
    exact ⟨rfl, rfl, rfl, rfl, rfl, rfl, rfl, rfl, rfl, rfl, rfl, rfl, rfl, rfl, rfl, rfl, rfl, rfl, rfl, rfl⟩
  · exact if_pos hrows

/-! ## The packed view -/

/-- `b2n(x)` has bit 0 at `x` and no other (00_scope.md R14). -/
@[simp] theorem getElem_bit (x : Bool) (j : Nat) (hj : j < 8) : (bit x)[j] = (decide (j = 0) && x) := by
  cases x <;> simp [bit, BitVec.getElem_one]

/-- Settles O60. -/
theorem packedShadowBits : Obligations.PackedShadowBits := by
  intro w
  simp [Shadow.packed]

end Sys2Proof.Machine

/-! PROOF. The statements of 20_memory.md: what one bus write leaves in the expander's latch P (R66), and the
observer of the display controller's interface behind it (R70, R72). -/

namespace Sys2Proof.Machine

/-! ## One bus write, by the bus's answer -/

section
variable {s : State} (b : Byte)

theorem State.memWrite_of_ok (h : s.answerAt 0 = .ok) : s.memWrite b = .going (s.wrote b) := by
  simp only [State.memWrite, h, State.wrote]

theorem State.memWrite_of_failOld (h : s.answerAt 0 = .failOld) :
    s.memWrite b = .aborted ((s.emit (.wr s.cfg.addr b)).takeAnswer.transportFailure b) := by
  simp only [State.memWrite, h]

theorem State.memWrite_of_failLanded (h : s.answerAt 0 = .failLanded) :
    s.memWrite b = .aborted (((s.emit (.wr s.cfg.addr b)).takeAnswer.land b).transportFailure b) := by
  simp only [State.memWrite, h]

end

@[simp] theorem State.wrote_latch (s : State) (b : Byte) : (s.wrote b).latch = b := rfl

/-- Settles O30: the byte lands, or the failure of R244 leaves the latch as the draw has settled it. -/
theorem writeSettlesLatch : Obligations.WriteSettlesLatch := by
  refine fun s b => ⟨fun hok => ⟨_, State.memWrite_of_ok b hok, s.wrote_latch b⟩, fun hfail => ?_⟩
  rcases s.memWrite_cases b with ⟨h, -⟩ | ⟨h, hw⟩ | ⟨h, hw⟩
  · exact absurd h hfail
  · exact ⟨_, hw, fun _ => rfl, fun hlanded => by simp [h] at hlanded⟩
  · exact ⟨_, hw, fun hold => by simp [h] at hold, fun _ => rfl⟩

/-! ## The observer -/

/-- The receiver sees the lines alone: the event and the bus's answer that come before a byte do not change
what it does with the byte. -/
theorem State.receive_issued (s : State) (e : Event) (p b : Byte) :
    (s.emit e).takeAnswer.receive p b = ((s.receive p b).emit e).takeAnswer := by
  simp only [State.receive, State.latchNibble_eq, State.emit, State.takeAnswer]
  split
  · rfl
  · split <;> rfl

/-- The `case RX of` of R70, row by row. -/
theorem State.latchNibble_table (s : State) (n : Nibble) (rs : Mode) :
    (s.rx = .unknown → (s.latchNibble n rs).rx = .unknown ∧ (s.latchNibble n rs).xfers = s.xfers) ∧
    (s.rx = .hi → (s.latchNibble n rs).rx = .lo n rs ∧ (s.latchNibble n rs).xfers = s.xfers) ∧
    (∀ h r0, s.rx = .lo h r0 → rs = r0 → (s.latchNibble n rs).rx = .hi ∧
      (s.latchNibble n rs).xfers = s.xfers ++ [{ rs := r0, byte := h ++ n }]) ∧
    (∀ h r0, s.rx = .lo h r0 → rs ≠ r0 →
      (s.latchNibble n rs).rx = .unknown ∧ (s.latchNibble n rs).xfers = s.xfers) := by
  rw [State.latchNibble_eq]
  refine ⟨fun hrx => ?_, fun hrx => ?_, fun h r0 hrx hsame => ?_, fun h r0 hrx hdiff => ?_⟩
  · simp [hrx, rxTake, rxGives]
  · simp [hrx, rxTake, rxGives]
  · simp [hrx, rxTake, rxGives, hsame]
  · simp [hrx, rxTake, rxGives, hdiff]

section
variable {s : State} (h : s.cfg.lines = exp8Lines) (p b : Byte)
include h

/-- R70 with the bit numbers it is written in. -/
theorem State.receive_of_exp8Lines :
    s.receive p b =
      if b.getLsbD 1 then { s with rx := .unknown }
      else if p.getLsbD 2 && !b.getLsbD 2 then
        s.latchNibble (b.extractLsb' 4 4) (if b.getLsbD 0 then .data else .command)
      else s := by
  obtain ⟨-, -, -, -, -, -, -, hread⟩ := exp8Literals.2 s.cfg h
  obtain ⟨hnibble, hmode, henable, hrw, -⟩ := hread b
  obtain ⟨-, -, hwasEnabled, -, -⟩ := hread p
  rw [State.receive, hnibble, hmode, henable, hrw, hwasEnabled]

variable {p b}

theorem State.receive_readCycle (hrw : b.getLsbD 1 = true) : s.receive p b = { s with rx := .unknown } := by
  rw [State.receive_of_exp8Lines h, if_pos hrw]

theorem State.receive_fallingEdge (hrw : b.getLsbD 1 = false) (hp : p.getLsbD 2 = true) (hb : b.getLsbD 2 = false) :
    s.receive p b = s.latchNibble (b.extractLsb' 4 4) (if b.getLsbD 0 then .data else .command) := by
  rw [State.receive_of_exp8Lines h, hrw, hp, hb]
  rfl

theorem State.receive_noEdge (hrw : b.getLsbD 1 = false) (hedge : ¬(p.getLsbD 2 = true ∧ b.getLsbD 2 = false)) :
    s.receive p b = s := by
  have hno : ¬(p.getLsbD 2 && !b.getLsbD 2) = true := by simpa only [Bool.and_eq_true, Bool.not_eq_true'] using hedge
  rw [State.receive_of_exp8Lines h, hrw, if_neg Bool.false_ne_true, if_neg hno]

end

/-- Settles O33: each clause is one case of the observer; a bus write hands its byte to the observer unless
the draw keeps the old latch, and a failure then overrides RX (R72). -/
theorem observerLatchesNibble : Obligations.ObserverLatchesNibble := by
  intro s b hlines
  have hissued := s.receive_issued (.wr s.cfg.addr b) s.latch b
  refine ⟨s.land_latch b, fun hrw => ?_, fun hrw ⟨hp, hb⟩ => ?_, fun hrw hedge => ?_, fun hok => ?_,
    fun hlanded => ?_, fun hold => ?_⟩
  · simp [State.receive_readCycle hlines hrw]
  · rw [State.land_rx, State.land_xfers, State.receive_fallingEdge hlines hrw hp hb]
    exact s.latchNibble_table _ _
  · simp [State.receive_noEdge hlines hrw hedge]
  · exact ⟨_, State.memWrite_of_ok b hok, rfl, by simp [State.wrote, hissued], by simp [State.wrote, hissued]⟩
  · exact ⟨_, State.memWrite_of_failLanded b hlanded, rfl, by simp [hissued]⟩
  · exact ⟨_, State.memWrite_of_failOld b hold, rfl, rfl⟩

end Sys2Proof.Machine

/-! PROOF. The statements of 30_encoding.md: encoding and decoding are inverse to each other (R104 to R107, R112,
R114), what a reserved word does (R106), the command bytes that requests send (R112, R116), and `print` (R110). -/

namespace Sys2Proof.Machine

open Laws.CodeShape (opcodeOf_append)

/-! ## Command bytes (R112) -/

theorem decode_setDdramPattern (a : BitVec 7) :
    decode (.transport (.command (1#1 ++ a))) = .ok (.cmdSetDdramAddress a) := by
  have htop : (1#1 ++ a : Byte).getLsbD 7 = true := BitVec.getLsbD_append.trans rfl
  have hlow : (1#1 ++ a : Byte).extractLsb' 0 7 = a := extract_append_low 1#1 a
  simp only [decode, decodeTransport, decodeCommand, htop, hlow, if_true]

theorem decode_setCgramPattern (a : BitVec 6) :
    decode (.transport (.command (1#2 ++ a))) = .ok (.cmdSetCgramAddress a) := by
  have hno : (1#2 ++ a : Byte).getLsbD 7 = false := BitVec.getLsbD_append.trans rfl
  have htop : (1#2 ++ a : Byte).getLsbD 6 = true := BitVec.getLsbD_append.trans rfl
  have hlow : (1#2 ++ a : Byte).extractLsb' 0 6 = a := extract_append_low 1#2 a
  simp only [decode, decodeTransport, decodeCommand, hno, htop, hlow, if_true, Bool.false_eq_true, if_false]

/-- An answer of the decoder as a decidable one. -/
theorem eq_ok_iff_toOption (e : Except DecodeError Instr) (i : Instr) : e = .ok i ↔ e.toOption = some i := by
  cases e with
  | ok j => exact ⟨congrArg Except.toOption, fun h => congrArg Except.ok (Option.some.inj h)⟩
  | error _ => exact ⟨nofun, nofun⟩

theorem decode_functionSetPattern : ∀ (l n f : Bool) (x : BitVec 2), decode (.transport (.command
    (1#3 ++ BitVec.ofBool l ++ BitVec.ofBool n ++ BitVec.ofBool f ++ x))) = .ok (.cmdFunctionSet l n f) := by
  simp only [eq_ok_iff_toOption]
  decide

theorem decode_shiftPattern : ∀ (m r : Bool) (x : BitVec 2), decode (.transport (.command
    (1#4 ++ BitVec.ofBool m ++ BitVec.ofBool r ++ x))) = .ok (.cmdCursorDisplayShift m r) := by
  simp only [eq_ok_iff_toOption]
  decide

theorem decode_displayControlPattern : ∀ d c b : Bool, decode (.transport (.command
    (1#5 ++ BitVec.ofBool d ++ BitVec.ofBool c ++ BitVec.ofBool b))) = .ok (.cmdDisplayControl d c b) := by
  simp only [eq_ok_iff_toOption]
  decide

theorem decode_entryModePattern : ∀ i s : Bool, decode (.transport (.command
    (1#6 ++ BitVec.ofBool i ++ BitVec.ofBool s))) = .ok (.cmdEntryModeSet i s) := by
  simp only [eq_ok_iff_toOption]
  decide

theorem decode_returnHomePattern : ∀ x : BitVec 1,
    decode (.transport (.command (1#7 ++ x))) = .ok .cmdReturnHome := by
  simp only [eq_ok_iff_toOption]
  decide

/-- Settles O4: an address is the low field of its pattern; the other patterns have few enough bits to
enumerate. -/
theorem commandBytePatterns : Obligations.CommandBytePatterns :=
  ⟨decode_setDdramPattern, decode_setCgramPattern, decode_functionSetPattern, decode_shiftPattern,
    decode_displayControlPattern, decode_entryModePattern, decode_returnHomePattern, rfl, rfl⟩

/-- Settles O3. -/
theorem sampleWordsDecode : Obligations.SampleWordsDecode :=
  ⟨rfl, rfl, rfl, rfl, rfl, rfl, rfl, rfl, rfl⟩

/-! ## Decoding what was encoded -/

/-- The operand bits above an opcode (R104). -/
theorem operand_append {n : Nat} (x : BitVec n) (op : Byte) : (x ++ op).extractLsb' 8 n = x :=
  (extract_append_high x op 0 n).trans (extract_all x)

/-- Two payload words hold a glyph (R107, R225). -/
theorem payloadRows_packRows {glyph : List Byte} (h : glyph.length = 8) :
    payloadRows (packRows glyph 0) ++ payloadRows (packRows glyph 4) = glyph := by
  simp only [packRows, payloadRows_append]
  match glyph, h with
  | [_, _, _, _, _, _, _, _], _ => rfl

theorem decode_encode_putc (cp : BitVec 24) : decode (encode (.putc cp)) = .ok (.putc cp) := by
  have hop : opcodeOf (cp ++ (0x04 : Byte)) = 0x04 := opcodeOf_append cp 0x04
  have hcp : (cp ++ (0x04 : Byte)).extractLsb' 8 24 = cp := operand_append cp 0x04
  exact (decodeRequest_putc hop).trans (congrArg _ (congrArg _ hcp))

theorem decode_encode_setcursor (col row : BitVec 8) :
    decode (encode (.setcursor col row)) = .ok (.setcursor col row) := by
  have hop := opcodeOf_append ((0 : Byte) ++ row ++ col) 0x05
  have hzero : ((0 : Byte) ++ row ++ col ++ (0x05 : Byte)).extractLsb' (8 + (8 + (8 + 0))) 8 = 0 := by
    simp only [extract_append_high, extract_all]
  have hrow : ((0 : Byte) ++ row ++ col ++ (0x05 : Byte)).extractLsb' (8 + (8 + 0)) 8 = row := by
    simp only [extract_append_high, extract_append_low]
  have hcol : ((0 : Byte) ++ row ++ col ++ (0x05 : Byte)).extractLsb' (8 + 0) 8 = col := by
    simp only [extract_append_high, extract_append_low]
  have hi : Instr.setcursor _ _ = .setcursor col row := congr (congrArg Instr.setcursor hcol) hrow
  exact (decodeRequest_setcursor hop).trans ((if_pos hzero).trans (congrArg Except.ok hi))

theorem decode_encode_cgdef (slot : BitVec 8) {glyph : List Byte} (h : glyph.length = 8) :
    decode (encode (.cgdef slot glyph)) = .ok (.cgdef slot glyph) := by
  have hop := opcodeOf_append ((0 : BitVec 16) ++ slot) 0x0E
  have hzero : ((0 : BitVec 16) ++ slot ++ (0x0E : Byte)).extractLsb' (8 + (8 + 0)) 16 = 0 := by
    simp only [extract_append_high, extract_all]
  have hslot : ((0 : BitVec 16) ++ slot ++ (0x0E : Byte)).extractLsb' (8 + 0) 8 = slot := by
    simp only [extract_append_high, extract_append_low]
  refine (decodeRequest_cgdef hop).trans ((if_pos hzero).trans ?_)
  rw [payloadRows_packRows h]
  exact congrArg (fun x => Except.ok (Instr.cgdef x glyph)) hslot

/-! A command with fields is sent as its pattern of R112, the don't-care bits 0 (R116). -/

theorem encode_cmdSetDdramAddress (a : BitVec 7) :
    encode (.cmdSetDdramAddress a) = .transport (.command (1#1 ++ a)) := rfl

theorem encode_cmdSetCgramAddress (a : BitVec 6) :
    encode (.cmdSetCgramAddress a) = .transport (.command (1#2 ++ a)) := rfl

theorem encode_cmdFunctionSet : ∀ l n f : Bool, encode (.cmdFunctionSet l n f) =
    .transport (.command (1#3 ++ BitVec.ofBool l ++ BitVec.ofBool n ++ BitVec.ofBool f ++ 0#2)) := by
  decide

theorem encode_cmdCursorDisplayShift : ∀ m r : Bool, encode (.cmdCursorDisplayShift m r) =
    .transport (.command (1#4 ++ BitVec.ofBool m ++ BitVec.ofBool r ++ 0#2)) := by
  decide

theorem encode_cmdDisplayControl : ∀ d c b : Bool, encode (.cmdDisplayControl d c b) =
    .transport (.command (1#5 ++ BitVec.ofBool d ++ BitVec.ofBool c ++ BitVec.ofBool b)) := by
  decide

theorem encode_cmdEntryModeSet : ∀ i s : Bool, encode (.cmdEntryModeSet i s) =
    .transport (.command (1#6 ++ BitVec.ofBool i ++ BitVec.ofBool s)) := by
  decide

/-- Settles O1: by the format. The codes without an operand evaluate; an operand is the field it was put in. -/
theorem decodeEncodeRoundTrip : Obligations.DecodeEncodeRoundTrip := by
  intro i hw
  cases i with
  | init | clear | home => rfl
  | displayOn | displayOff | cursorOn | cursorOff | blinkOn | blinkOff | backlightOn | backlightOff => rfl
  | scrollLeft | scrollRight | leftToRight | rightToLeft | shiftInc | shiftDec => rfl
  | cmdClearDisplay | cmdReturnHome | nibInit8bit | nibInit4bit => rfl
  | putc cp => exact decode_encode_putc cp
  | setcursor col row => exact decode_encode_setcursor col row
  | cgdef slot glyph => exact decode_encode_cgdef slot (eq_of_beq hw)
  | cmdEntryModeSet i s => rw [encode_cmdEntryModeSet, decode_entryModePattern]
  | cmdDisplayControl d c b => rw [encode_cmdDisplayControl, decode_displayControlPattern]
  | cmdCursorDisplayShift m r => rw [encode_cmdCursorDisplayShift, decode_shiftPattern]
  | cmdFunctionSet l n f => rw [encode_cmdFunctionSet, decode_functionSetPattern]
  | cmdSetCgramAddress a => rw [encode_cmdSetCgramAddress, decode_setCgramPattern]
  | cmdSetDdramAddress a => rw [encode_cmdSetDdramAddress, decode_setDdramPattern]

/-! ## Encoding what was decoded -/

/-- The length rule of R109: two words for CGDEF, none for any other opcode. -/
theorem payload_cases {q : Word} {payload : List Word} (h : payload.length = payloadLength q) :
    (opcodeOf q = 0x0E ∧ ∃ g0 g1, payload = [g0, g1]) ∨ (opcodeOf q ≠ 0x0E ∧ payload = []) := by
  by_cases hop : opcodeOf q = 0x0E
  · match payload, h.trans (if_pos hop) with
    | [g0, g1], _ => exact .inl ⟨hop, g0, g1, rfl⟩
  · exact .inr ⟨hop, List.length_eq_zero_iff.mp (h.trans (if_neg hop))⟩

/-- A request that decodes has one of four formats (R104, R105), each with its payload, the field that must be
zero, and its operands. -/
theorem decodeRequest_cases {q : Word} {payload : List Word} {i : Instr} (h : decodeRequest q payload = .ok i) :
    (opcodeOf q = 0x0E ∧ q.extractLsb' 16 16 = 0 ∧ ∃ g0 g1, payload = [g0, g1] ∧
      i = .cgdef (q.extractLsb' 8 8) (payloadRows g0 ++ payloadRows g1)) ∨
    (payload = [] ∧ opcodeOf q = 0x04 ∧ i = .putc (q.extractLsb' 8 24)) ∨
    (payload = [] ∧ opcodeOf q = 0x05 ∧ q.extractLsb' 24 8 = 0 ∧
      i = .setcursor (q.extractLsb' 8 8) (q.extractLsb' 16 8)) ∨
    (payload = [] ∧ q.extractLsb' 8 24 = 0 ∧ r0Table.lookup (opcodeOf q) = some i) := by
  rcases payload_cases (decodeRequest_length h) with ⟨hcgdef, g0, g1, rfl⟩ | ⟨hcgdef, rfl⟩
  · rw [decodeRequest_cgdef hcgdef] at h
    split at h <;> cases h
    next hzero => exact .inl ⟨hcgdef, hzero, g0, g1, rfl, rfl⟩
  · right
    by_cases hputc : opcodeOf q = 0x04
    · rw [decodeRequest_putc hputc] at h
      cases h
      exact .inl ⟨rfl, hputc, rfl⟩
    right
    by_cases hset : opcodeOf q = 0x05
    · rw [decodeRequest_setcursor hset] at h
      split at h <;> cases h
      next hzero => exact .inl ⟨rfl, hset, hzero, rfl⟩
    right
    rw [decodeRequest_r0 hcgdef hputc hset, decodeR0] at h
    split at h
    next j hj =>
      split at h <;> cases h
      next hzero => exact ⟨rfl, hzero, hj⟩
    next => cases h

theorem encode_cgdef (slot : BitVec 8) (glyph : List Byte) :
    encode (.cgdef slot glyph) =
      .request ((0 : BitVec 16) ++ slot ++ (0x0E : Byte)) [packRows glyph 0, packRows glyph 4] := rfl

/-- The rows of two payload words pack into the same words (R107, R225). -/
theorem packRows_payloadRows (g0 g1 : Word) :
    [packRows (payloadRows g0 ++ payloadRows g1) 0, packRows (payloadRows g0 ++ payloadRows g1) 4] = [g0, g1] := by
  have h0 : packRows (payloadRows g0 ++ payloadRows g1) 0 = g0 := payloadRow_append g0
  have h1 : packRows (payloadRows g0 ++ payloadRows g1) 4 = g1 := payloadRow_append g1
  rw [h0, h1]

/-- Settles O2: the fields of each format put together again are the word. -/
theorem requestSpellingUnique : Obligations.RequestSpellingUnique := by
  intro q payload i h
  refine ⟨?_, (decodeRequest_wellFormed h).symm⟩
  rcases decodeRequest_cases h with ⟨hop, hzero, g0, g1, rfl, rfl⟩ | ⟨rfl, hop, rfl⟩ | ⟨rfl, hop, hzero, rfl⟩ |
    ⟨rfl, hzero, hi⟩
  · have hq := request_word_slot q
    rw [hzero, hop] at hq
    rw [encode_cgdef, packRows_payloadRows]
    exact congrArg (Code.request · _) hq
  · have hq := request_word q
    rw [hop] at hq
    exact congrArg (Code.request · _) hq
  · have hq := request_word_bytes q
    rw [hzero, hop] at hq
    exact congrArg (Code.request · _) hq
  · have hq := request_word q
    rw [hzero] at hq
    obtain ⟨-, -, -, henc⟩ := r0Table_spec hi
    exact henc.trans (congrArg (Code.request · _) hq)

/-! ## Reserved words (R106) -/

theorem exists_ite_ok_iff {p : Prop} [Decidable p] (i : Instr) (e : DecodeError) :
    (∃ j, (if p then .ok i else .error e : Except DecodeError Instr) = .ok j) ↔ p := by
  by_cases hp : p <;> simp [hp]

theorem r0Table_lookup_isSome : ∀ op : Byte, op ≠ 0x0E → op ≠ 0x04 → op ≠ 0x05 →
    ((r0Table.lookup op).isSome = true ↔ op ≠ 0x00 ∧ ¬ 0x14 < op) := by
  decide

theorem decodeR0_isOk_iff {q : Word} (hcgdef : opcodeOf q ≠ 0x0E) (hputc : opcodeOf q ≠ 0x04)
    (hset : opcodeOf q ≠ 0x05) :
    (∃ i, decodeR0 q = .ok i) ↔
      (opcodeOf q ≠ 0x00 ∧ ¬ 0x14 < opcodeOf q) ∧ q.extractLsb' 8 24 = 0 := by
  rw [← r0Table_lookup_isSome _ hcgdef hputc hset, decodeR0]
  cases r0Table.lookup (opcodeOf q) with
  | none => simp
  | some i => simp only [exists_ite_ok_iff, Option.isSome_some, true_and]

theorem reservedWord_iff (q : Word) : reservedWord q ↔
    opcodeOf q = 0x00 ∨ 0x14 < opcodeOf q ∨
      (opcodeOf q ≠ 0x04 ∧ opcodeOf q ≠ 0x05 ∧ opcodeOf q ≠ 0x0E ∧ q.extractLsb' 8 24 ≠ 0) ∨
      (opcodeOf q = 0x05 ∧ q.extractLsb' 24 8 ≠ 0) ∨ (opcodeOf q = 0x0E ∧ q.extractLsb' 16 16 ≠ 0) := Iff.rfl

/-- A request word with the payload words of its opcode decodes exactly if it is not reserved (R106). -/
theorem decodeRequest_isOk_iff {q : Word} {payload : List Word} (hlen : payload.length = payloadLength q) :
    (∃ i, decodeRequest q payload = .ok i) ↔ ¬ reservedWord q := by
  rw [reservedWord_iff]
  rcases payload_cases hlen with ⟨hcgdef, g0, g1, rfl⟩ | ⟨hcgdef, rfl⟩
  · simp [decodeRequest_cgdef hcgdef, exists_ite_ok_iff, hcgdef]
  · by_cases hputc : opcodeOf q = 0x04
    · simp [decodeRequest_putc hputc, hputc]
    by_cases hset : opcodeOf q = 0x05
    · simp [decodeRequest_setcursor hset, exists_ite_ok_iff, hset]
    rw [decodeRequest_r0 hcgdef hputc hset, decodeR0_isOk_iff hcgdef hputc hset]
    simp only [hcgdef, hputc, hset, ne_eq, not_false_eq_true, true_and, false_and, or_false, not_or,
      Classical.not_not, and_assoc]

/-- An idle block performs the code of the words at the head of its port (10_state.md R36, R109). -/
theorem step_port {s : State} {q : Word} {payload rest : List Word} (hb : s.busy = false) (hx : s.xport = none)
    (hport : s.port = q :: payload ++ rest) (hlen : payload.length = payloadLength q) :
    step s = runCode (.request q payload) { s with port := rest } := by
  have hfetch : fetchRequest s.port = .request q payload rest := hport ▸ fetchRequest_cons q payload rest hlen
  simp only [step, hb, hx, hfetch]

/-- Settles O5: a reserved word does not decode, so it is refused. -/
theorem reservedRequestRefused : Obligations.ReservedRequestRefused := by
  intro s q payload rest hb hx hport hlen
  have hok : (∃ i, decode (.request q payload) = .ok i) ↔ ¬ reservedWord q := decodeRequest_isOk_iff hlen
  refine ⟨fun hres => ?_, hok.mpr⟩
  rw [step_port hb hx hport hlen]
  rcases runCode_cases (.request q payload) { s with port := rest } with ⟨i, hdec, -⟩ | ⟨_, -, hrun⟩
  · exact absurd hres (hok.mp ⟨i, hdec⟩)
  · exact ⟨_, hrun, rfl⟩

/-! ## Requests on a bus that fails none of their writes -/

/-- A request that no failed write ends completes. -/
theorem exec_of_going {i : Instr} {s t : State} (hr : i.isRequest = true) (hb : s.busy = false)
    (h : (s.accept i).runMicros (program s.cfg i) = .going t) : exec i s = .next t.complete := by
  rw [exec_request s hr, performRequest_idle hb, h]
  rfl

/-- PUTC to a receiver in step: the low byte of the code point is delivered (R220, R222), and the block is idle
and in step again. -/
theorem exec_putc_delivers (cp : BitVec 24) {s : State} (hb : s.busy = false) (hrx : s.rx = .hi)
    (hok : s.busOk 4) :
    ∃ t, exec (.putc cp) s = .next t ∧ t.busy = false ∧ t.rx = .hi ∧
      t.xfers = s.xfers ++ [{ rs := .data, byte := cp.extractLsb' 0 8 }] ∧
      t.bus = s.bus.drop 4 ∧ t.draws = s.draws + 4 := by
  have hok' : (s.accept (.putc cp)).busOk 4 := State.busOk_congr (by simp) (by simp) hok
  have hrx' : (s.accept (.putc cp)).rx = .hi := by simp [hrx]
  refine ⟨_, exec_of_going rfl hb (sendByte_run _ _ hok'), rfl, ?_⟩
  simp [State.sent_eq, State.received_hi _ hrx', hrx, Value.eval, characterByte]

/-- Settles O50: induction on the text, one PUTC a step. -/
theorem printDeliversText : Obligations.PrintDeliversText := by
  intro text
  induction text with
  | nil =>
    intro s _ _ hrx _ hport
    exact ⟨s, rfl, hport, hrx, by simp⟩
  | cons cp text ih =>
    intro s hb hx hrx hok hport
    rw [List.length_cons, Nat.mul_succ, Nat.add_comm] at hok
    obtain ⟨t, ht, htb, htrx, htx, hbus, hdraws⟩ :=
      exec_putc_delivers cp (s := { s with port := text.map fun cp => cp ++ (0x04 : Byte) }) hb hrx
        (State.busOk_mono hok (Nat.le_add_right 4 _))
    have hstep : step s = .next t :=
      (stepRunsDecodedRequest s _ [] _ _ hb hx hport (decode_encode_putc cp)).trans ht
    have hframe := exec_frame ht
    obtain ⟨v, hv, hvport, hvrx, hvx⟩ := ih t htb (hframe.xport.trans hx) htrx
      (State.busOk_drop hbus hdraws hok) hframe.port
    refine ⟨v, (core_run_next hstep _).trans hv, hvport, hvrx, ?_⟩
    rw [hvx, htx, List.append_assoc]
    rfl

/-! ## The command bytes a request sends (R112, R116) -/

/-- The byte decodes as a command of the controller, and is the byte that command is sent as: its don't-care
bits are 0. -/
def KnownCommand (b : Byte) : Prop :=
  ∃ j, decode (.transport (.command b)) = .ok j ∧ commandByte j = b

/-- The byte of a CMD8 row is one, since what is encoded decodes. -/
theorem knownCommand_of_row {j : Instr} (hw : j.WellFormed)
    (h : encode j = .transport (.command (commandByte j))) : KnownCommand (commandByte j) :=
  ⟨j, h ▸ decodeEncodeRoundTrip j hw, rfl⟩

theorem knownCommand_clearDisplay : KnownCommand 0x01 := knownCommand_of_row (j := .cmdClearDisplay) rfl rfl

theorem knownCommand_returnHome : KnownCommand 0x02 := knownCommand_of_row (j := .cmdReturnHome) rfl rfl

theorem knownCommand_scroll (right : Bool) : KnownCommand (if right then 0x1C else 0x18) := by
  have h := knownCommand_of_row (j := .cmdCursorDisplayShift true right) rfl rfl
  cases right <;> exact h

theorem knownCommand_displayControlByte (w : Shadow) : KnownCommand (displayControlByte w) :=
  knownCommand_of_row (j := .cmdDisplayControl w.displayOn w.cursorOn w.blinkOn) rfl rfl

theorem knownCommand_entryModeByte (w : Shadow) : KnownCommand (entryModeByte w) :=
  knownCommand_of_row (j := .cmdEntryModeSet w.entryLeft w.entryShift) rfl rfl

theorem knownCommand_setDdramByte (a : BitVec 7) : KnownCommand (setDdramByte a) :=
  knownCommand_of_row (j := .cmdSetDdramAddress a) rfl rfl

/-- The slot's low three bits are the upper half of the CGRAM address (43_data.md R225). -/
theorem cgramByte_eq_commandByte (slot : BitVec 8) :
    cgramByte slot = commandByte (.cmdSetCgramAddress (slot.extractLsb' 0 3 ++ 0#3)) := by
  revert slot; decide

theorem knownCommand_cgramByte (slot : BitVec 8) : KnownCommand (cgramByte slot) := by
  rw [cgramByte_eq_commandByte]
  exact knownCommand_of_row rfl rfl

/-- INIT's function set: 4-bit interface, font 0 (41_init.md R167). -/
theorem functionSetByte_eq_commandByte (c : Cfg) :
    functionSetByte c = commandByte (.cmdFunctionSet false (decide (1 < c.rows.toNat)) false) := by
  cases h : decide (1 < c.rows.toNat) <;> simp only [functionSetByte, h] <;> rfl

theorem knownCommand_functionSetByte (c : Cfg) : KnownCommand (functionSetByte c) := by
  rw [functionSetByte_eq_commandByte]
  exact knownCommand_of_row rfl rfl

/-! ## Lists that send known commands only -/

/-- Of the transfers delivered between `s` and `t`, each COMMAND is a known command. -/
def DeliveredKnown (s t : State) : Prop :=
  ∃ new, t.xfers = s.xfers ++ new ∧ ∀ x ∈ new, x.rs = .command → KnownCommand x.byte

theorem DeliveredKnown.of_eq {s t : State} (h : t.xfers = s.xfers) : DeliveredKnown s t :=
  ⟨[], by simp [h], by simp⟩

theorem DeliveredKnown.trans {s t u : State} (h : DeliveredKnown s t) (g : DeliveredKnown t u) :
    DeliveredKnown s u := by
  obtain ⟨a, ha, hka⟩ := h
  obtain ⟨b, hb, hkb⟩ := g
  refine ⟨a ++ b, by rw [hb, ha, List.append_assoc], fun x hx => ?_⟩
  exact (List.mem_append.mp hx).elim (hka x) (hkb x)

/-- Run from a receiver in step, on a bus that fails none of its writes, the list delivers known commands only;
if `inStep` is set, it also leaves the receiver in step. -/
def SendsKnown (inStep : Bool) (l : List Micro) : Prop :=
  ∀ s : State, s.rx = .hi → s.busOk (writeCount l) →
    ∃ t, s.runMicros l = .going t ∧ (inStep = true → t.rx = .hi) ∧ DeliveredKnown s t

section
variable {l r : List Micro} {inStep : Bool} (h : SendsKnown true l)
include h

/-- The receiver's place after the list may be forgotten. -/
theorem SendsKnown.forget : SendsKnown false l := by
  intro s hrx hok
  obtain ⟨t, ht, -, hk⟩ := h s hrx hok
  exact ⟨t, ht, by simp, hk⟩

theorem SendsKnown.append (g : SendsKnown inStep r) : SendsKnown inStep (l ++ r) := by
  intro s hrx hok
  rw [writeCount_append] at hok
  obtain ⟨t, ht, htrx, hkt⟩ := h s hrx (State.busOk_mono hok (Nat.le_add_right _ _))
  have hgoes := (State.runMicros_going ht).1
  obtain ⟨u, hu, hurx, hku⟩ := g t (htrx rfl) (State.busOk_drop hgoes.bus hgoes.draws hok)
  exact ⟨u, State.runMicros_chain ht hu, hurx, hkt.trans hku⟩

end

theorem sendsKnown_nil : SendsKnown true [] := fun s hrx _ => ⟨s, rfl, fun _ => hrx, .of_eq rfl⟩

/-- Delays and assignments deliver nothing. -/
theorem sendsKnown_quiet {m : Micro} (hm : m.isWrite = false) : SendsKnown true [m] := by
  intro s hrx _
  refine ⟨s.okMicro m, ?_, ?_⟩
  · rw [State.runMicros_cons, State.micro_ok (by simp [hm])]
    rfl
  · cases m with
    | write x => cases hm
    | sleep d => exact ⟨fun _ => hrx, .of_eq rfl⟩
    | sleepReady d => exact ⟨fun _ => rfl, .of_eq rfl⟩
    | assign a => exact ⟨fun _ => by simpa [State.okMicro] using hrx, .of_eq (by simp [State.okMicro])⟩

/-- SendByte of a data byte, or of a value that is a known command whatever the flags are. -/
theorem sendsKnown_sendByte {v : Value} {mode : Mode} (hv : mode = .command → ∀ w, KnownCommand (v.eval w)) :
    SendsKnown true (sendByte v mode) := by
  intro s hrx hok
  refine ⟨_, sendByte_run v mode hok, ?_⟩
  rw [State.sent_eq, State.received_hi _ hrx]
  exact ⟨fun _ => hrx, _, rfl, by simpa using fun hc => hv hc s.w⟩

/-- A write of 0x00 completes no transfer at a receiver in step: it can at most latch a high nibble. -/
theorem sendsKnown_zero : SendsKnown false [.write .zero] := by
  intro s hrx hok
  refine ⟨_, State.runMicros_ok hok, by simp, .of_eq ?_⟩
  simp only [List.foldl_cons, List.foldl_nil, State.okMicro, State.wrote, State.land, State.receive,
    State.latchNibble_eq]
  split
  · simp
  · split <;> simp [hrx, rxGives]

/-! ## The requests' lists -/

theorem sendsKnown_command {b : Byte} (hb : KnownCommand b) : SendsKnown true (sendByte (.lit b) .command) :=
  sendsKnown_sendByte fun _ _ => hb

theorem sendsKnown_data (v : Value) : SendsKnown true (sendByte v .data) :=
  sendsKnown_sendByte fun h => by cases h

theorem sendsKnown_assign (a : List (Field × Bool)) : SendsKnown true [.assign a] := sendsKnown_quiet rfl

theorem sendsKnown_displayControlByte : SendsKnown true (sendByte .displayControl .command) :=
  sendsKnown_sendByte fun _ w => knownCommand_displayControlByte w

theorem sendsKnown_entryModeByte : SendsKnown true (sendByte .entryMode .command) :=
  sendsKnown_sendByte fun _ w => knownCommand_entryModeByte w

theorem sendsKnown_slow {b : Byte} (hb : KnownCommand b) : SendsKnown true (slowCommandSteps b) :=
  (sendsKnown_command hb).append (sendsKnown_quiet rfl)

theorem sendsKnown_displayControl (f : Field) (v : Bool) : SendsKnown true (displayControlSteps f v) :=
  (sendsKnown_assign [(f, v)]).append sendsKnown_displayControlByte

theorem sendsKnown_entryMode (f : Field) (v : Bool) : SendsKnown true (entryModeSteps f v) :=
  (sendsKnown_assign [(f, v)]).append sendsKnown_entryModeByte

theorem sendsKnown_backlight (v : Bool) : SendsKnown false (backlightSteps v) :=
  (sendsKnown_assign [(.backlightOn, v)]).append sendsKnown_zero

theorem sendsKnown_rows (glyph : List Byte) : SendsKnown true (glyph.flatMap fun r => sendByte (.lit r) .data) := by
  induction glyph with
  | nil => exact sendsKnown_nil
  | cons r rows ih => exact (sendsKnown_data (.lit r)).append ih

/-- The list of a request other than INIT. -/
theorem sendsKnown_program (c : Cfg) {i : Instr} (hr : i.isRequest = true) (hi : i ≠ .init) :
    SendsKnown false (program c i) := by
  cases i <;> cases hr
  case init => exact absurd rfl hi
  case clear => exact (sendsKnown_slow knownCommand_clearDisplay).forget
  case home => exact (sendsKnown_slow knownCommand_returnHome).forget
  case putc cp => exact (sendsKnown_data _).forget
  case setcursor col row => exact (sendsKnown_command (knownCommand_setDdramByte _)).forget
  case cgdef slot glyph =>
    exact ((sendsKnown_command (knownCommand_cgramByte slot)).append (sendsKnown_rows glyph)).forget
  case scrollLeft => exact (sendsKnown_command (knownCommand_scroll false)).forget
  case scrollRight => exact (sendsKnown_command (knownCommand_scroll true)).forget
  case backlightOn | backlightOff => exact sendsKnown_backlight _
  case leftToRight | rightToLeft | shiftInc | shiftDec => exact (sendsKnown_entryMode _ _).forget
  all_goals exact (sendsKnown_displayControl _ _).forget

/-- INIT's list from micro-step 20 on (41_init.md R167 to R169). -/
theorem sendsKnown_programSteps (c : Cfg) : SendsKnown false (programSteps c) := by
  have hfunctionSet := sendsKnown_command (knownCommand_functionSetByte c)
  have hdisplay := (hfunctionSet.append
    (sendsKnown_assign [(.displayOn, true), (.cursorOn, false), (.blinkOn, false)])).append
    sendsKnown_displayControlByte
  have hentry := (hdisplay.append (sendsKnown_assign [(.entryLeft, true), (.entryShift, false)])).append
    sendsKnown_entryModeByte
  have hclear := (hentry.append (sendsKnown_command knownCommand_clearDisplay)).append
    (sendsKnown_quiet (m := .sleep .slow) rfl)
  exact hclear.append (sendsKnown_backlight true)

/-- INIT: the bring-up delivers nothing and ends with the receiver in step (41_init.md R166). -/
theorem runMicros_init_deliversKnown {s : State} (hok : s.busOk 25) (hrx : s.rx = .unknown) :
    ∃ t, s.runMicros (initSteps s.cfg) = .going t ∧ DeliveredKnown s t := by
  have hup := State.bringUp_run (State.busOk_mono hok (by decide)) hrx
  obtain ⟨t, ht, -, hk⟩ := sendsKnown_programSteps s.cfg _ rfl (State.initAt_busOk (n := 8) (m := 17) hok)
  exact ⟨t, State.runMicros_chain hup ht, hk⟩

/-- Settles O27: INIT's list has a bring-up before its commands, every other list starts in step. -/
theorem onlyKnownCommandsSent : Obligations.OnlyKnownCommandsSent := by
  intro i s hr hw hb hrx hok
  have hok' {n : Nat} (hn : n ≤ 36) : (s.accept i).busOk n :=
    State.busOk_congr (s.accept_bus i) (s.accept_draws i) (State.busOk_mono hok hn)
  have hrun : ∃ t, (s.accept i).runMicros (program s.cfg i) = .going t ∧ DeliveredKnown (s.accept i) t := by
    by_cases hi : i = .init
    · subst hi
      exact s.accept_cfg .init ▸ runMicros_init_deliversKnown (hok' (by decide)) (by simp)
    · obtain ⟨t, ht, -, hk⟩ :=
        sendsKnown_program s.cfg hr hi (s.accept i) (by simp [hi, hrx]) (hok' (program_bounds s.cfg hr hw).2)
      exact ⟨t, ht, hk⟩
  obtain ⟨t, ht, new, hx, hknown⟩ := hrun
  exact ⟨t.complete, new, exec_of_going hr hb ht, by simpa using hx, hknown⟩

end Sys2Proof.Machine

/-! PROOF. The statements of 40_transport.md: what ExpanderWrite, WriteNibble and SendByte do on a bus that
completes their writes (R140, R142, R144 to R146), the shape of an enable strobe in every list (R142, R281), and
the backlight line of every byte written (R141, R73). -/

namespace Sys2Proof.Machine

/-! ## The Transport Multiplexer's operations -/

/-- Settles O29. -/
theorem expanderWriteOk : Obligations.ExpanderWriteOk := by
  intro s x hok
  have hrun : s.expanderWrite x = .going (s.wrote (x ||| backlightBit s.cfg s.w.backlightOn)) :=
    State.memWrite_of_ok _ (hok 0 Nat.one_pos)
  refine ⟨_, hrun, rfl, by simp [State.wrote, backlightBit], fun hlines => ?_⟩
  obtain ⟨-, -, -, -, -, hbit, -⟩ := exp8Literals.2 s.cfg hlines
  rw [State.wrote_latch, hbit]

/-- Up to its first settle WriteNibble has latched nothing: the write that raises the enable line makes no falling
edge (R144). -/
theorem writeNibble_first_half {s : State} (v : Value) (half : Half) (m : Mode) (h : s.busOk 1) :
    ∃ u, s.runMicros ((writeNibble v half m).take 2) = .going u ∧ u.rx = s.rx ∧ u.xfers = s.xfers := by
  refine ⟨_, State.runMicros_ok h, ?_⟩
  simp only [writeNibble, List.take_succ_cons, List.take_zero, List.foldl_cons, List.foldl_nil, State.okMicro_high]
  exact ⟨rfl, rfl⟩

/-- Settles O31: a WriteNibble that completes leaves the receiver and XFERS as latching its nibble once does. -/
theorem writeNibbleDeliversOne : Obligations.WriteNibbleDeliversOne := by
  intro s v m hok
  obtain ⟨hunknown, hhi, hsame, hother⟩ := s.latchNibble_table (v.extractLsb' 4 4) m
  refine ⟨_, writeNibble_run (.lit v) .high m hok, rfl, hhi, fun h hrx => hsame h m hrx rfl,
    fun h r hrx hne => hother h r hrx hne.symm, hunknown, ?_⟩
  exact writeNibble_first_half _ _ _ (State.busOk_mono hok (by decide))

/-- The events of a transfer on the lines of R100, as literals (R146). -/
theorem transferEvents_of_exp8Lines {c : Cfg} (hlines : c.lines = exp8Lines) (on : Bool) (v : Byte) (m : Mode) :
    let carried : Byte := (if m = .data then 0x01 else 0x00) ||| (if on then 0x08 else 0x00)
    let h : Byte := (v &&& 0xF0) ||| carried
    let l : Byte := ((v <<< 4) &&& 0xF0) ||| carried
    transferEvents c on { rs := m, byte := v } =
      [.wr c.addr (h ||| 0x04), .dly c.tEdge, .wr c.addr h, .dly c.tEdge,
       .wr c.addr (l ||| 0x04), .dly c.tEdge, .wr c.addr l, .dly c.tEdge] := by
  obtain ⟨-, hen, -, -, -, hbit, hbyte, -⟩ := exp8Literals.2 c hlines
  obtain ⟨hhigh, hlow⟩ := hbyte v m
  simp only [transferEvents, hen, hbit, hhigh, hlow, BitVec.or_assoc]

/-- Settles O32: a SendByte that completes is one transfer sent, which a receiver in step takes. -/
theorem sendByteDeliversByte : Obligations.SendByteDeliversByte := by
  intro s v m hok
  refine ⟨_, sendByte_run (.lit v) m hok, length_sendByte _ _, ?_,
    fun hlines => transferEvents_of_exp8Lines hlines _ v m, fun hrx => ?_⟩
  · rw [State.sent_eq]; rfl
  · rw [State.sent_eq, State.received_hi _ hrx]
    exact ⟨hrx, rfl⟩

/-! ## Enable strobes (R142, R281) -/

/-- Every write of the list that raises the enable line is followed by a settle, the write that lowers it again
with the same nibble and mode, and another settle. -/
def StrobesWhole (l : List Micro) : Prop :=
  ∀ (n : Nat) (v : Value) (h : Half) (m : Mode), l[n]? = some (.write (.nibble v h m true)) →
    l[n + 1]? = some (.sleep .edge) ∧ l[n + 2]? = some (.write (.nibble v h m false)) ∧
    (l[n + 3]? = some (.sleep .edge) ∨ l[n + 3]? = some (.sleepReady .edge))

theorem strobesWhole_nil : StrobesWhole [] := fun _ _ _ _ h => by cases h

/-- What stands in the first of two lists stands at the same index of both together. -/
theorem getElem?_append_of_some {l : List Micro} {n : Nat} {x : Micro} (r : List Micro) (h : l[n]? = some x) :
    (l ++ r)[n]? = some x := by
  obtain ⟨hn, -⟩ := List.getElem?_eq_some_iff.mp h
  rw [List.getElem?_append_left hn, h]

/-- A whole strobe does not reach past the end of its own list. -/
theorem StrobesWhole.append {l r : List Micro} (hl : StrobesWhole l) (hr : StrobesWhole r) :
    StrobesWhole (l ++ r) := by
  intro n v h m hn
  rcases Nat.lt_or_ge n l.length with hlt | hge
  · rw [List.getElem?_append_left hlt] at hn
    obtain ⟨hsettle, hlower, hlast⟩ := hl n v h m hn
    exact ⟨getElem?_append_of_some r hsettle, getElem?_append_of_some r hlower,
      hlast.imp (getElem?_append_of_some r) (getElem?_append_of_some r)⟩
  · obtain ⟨k, rfl⟩ := Nat.exists_eq_add_of_le hge
    simp only [Nat.add_assoc, List.getElem?_append_right (Nat.le_add_right _ _), Nat.add_sub_cancel_left] at hn ⊢
    exact hr k v h m hn

/-- A micro-step that does not raise the enable line starts no strobe. -/
theorem strobesWhole_single {x : Micro} (hx : ∀ v h m, x ≠ .write (.nibble v h m true)) : StrobesWhole [x] := by
  intro n v h m hn
  obtain ⟨hlt, hn⟩ := List.getElem?_eq_some_iff.mp hn
  obtain rfl : n = 0 := Nat.lt_one_iff.mp hlt
  exact absurd hn (hx v h m)

/-- One strobe, with either kind of last settle (R142, 41_init.md R165). -/
theorem strobesWhole_strobe (v : Value) (h : Half) (m : Mode) {last : Micro}
    (hlast : last = .sleep .edge ∨ last = .sleepReady .edge) :
    StrobesWhole [.write (.nibble v h m true), .sleep .edge, .write (.nibble v h m false), last] := by
  intro n v' h' m' hn
  match n with
  | 0 =>
    cases hn
    exact ⟨rfl, rfl, hlast.imp (congrArg some) (congrArg some)⟩
  | 1 | 2 => cases hn
  | 3 => rcases hlast with rfl | rfl <;> cases hn
  | _ + 4 => cases hn

theorem strobesWhole_writeNibble (v : Value) (h : Half) (m : Mode) : StrobesWhole (writeNibble v h m) :=
  strobesWhole_strobe v h m (.inl rfl)

theorem strobesWhole_switchTo4bit : StrobesWhole switchTo4bit := strobesWhole_strobe _ _ _ (.inr rfl)

theorem strobesWhole_sendByte (v : Value) (m : Mode) : StrobesWhole (sendByte v m) :=
  (strobesWhole_writeNibble v .high m).append (strobesWhole_writeNibble v .low m)

theorem strobesWhole_sleep (d : Delay) : StrobesWhole [.sleep d] := strobesWhole_single (by simp)

theorem strobesWhole_assign (a : List (Field × Bool)) : StrobesWhole [.assign a] := strobesWhole_single (by simp)

theorem strobesWhole_zero : StrobesWhole [.write .zero] := strobesWhole_single (by simp)

/-- A flag assigned, then its bundle sent (42_commands.md R187, R198). -/
theorem strobesWhole_assign_sendByte (a : List (Field × Bool)) (v : Value) :
    StrobesWhole (.assign a :: sendByte v .command) :=
  (strobesWhole_assign a).append (strobesWhole_sendByte v .command)

theorem strobesWhole_rows (glyph : List Byte) : StrobesWhole (glyph.flatMap fun r => sendByte (.lit r) .data) := by
  induction glyph with
  | nil => exact strobesWhole_nil
  | cons r rows ih => exact (strobesWhole_sendByte (.lit r) .data).append ih

theorem strobesWhole_bringUpSteps : StrobesWhole bringUpSteps := by
  have hforce : StrobesWhole force8bit := strobesWhole_writeNibble _ _ _
  have hfirst := ((strobesWhole_sleep .power).append hforce).append (strobesWhole_sleep .init1)
  have hsecond := (hfirst.append hforce).append (strobesWhole_sleep .init2)
  have hthird := (hsecond.append hforce).append (strobesWhole_sleep .init3)
  exact hthird.append strobesWhole_switchTo4bit

theorem strobesWhole_programSteps (c : Cfg) : StrobesWhole (programSteps c) := by
  have hdisplay := ((strobesWhole_sendByte (.lit (functionSetByte c)) .command).append
    (strobesWhole_assign [(.displayOn, true), (.cursorOn, false), (.blinkOn, false)])).append
    (strobesWhole_sendByte .displayControl .command)
  have hentry := (hdisplay.append (strobesWhole_assign [(.entryLeft, true), (.entryShift, false)])).append
    (strobesWhole_sendByte .entryMode .command)
  have hclear := (hentry.append (strobesWhole_sendByte (.lit 0x01) .command)).append (strobesWhole_sleep .slow)
  exact hclear.append ((strobesWhole_assign _).append strobesWhole_zero)

/-- Settles O26: every list is put together from whole strobes and micro-steps that raise nothing. -/
theorem enableStrobeShape : Obligations.EnableStrobeShape := by
  intro c i
  show StrobesWhole (program c i)
  cases i
  case init => exact strobesWhole_bringUpSteps.append (strobesWhole_programSteps c)
  case clear | home => exact (strobesWhole_sendByte _ _).append (strobesWhole_sleep .slow)
  case cgdef slot glyph => exact (strobesWhole_sendByte _ _).append (strobesWhole_rows glyph)
  case backlightOn | backlightOff => exact (strobesWhole_assign _).append strobesWhole_zero
  case displayOn | displayOff | cursorOn | cursorOff | blinkOn | blinkOff | leftToRight | rightToLeft | shiftInc
      | shiftDec => exact strobesWhole_assign_sendByte _ _
  case nibInit8bit | nibInit4bit => exact strobesWhole_writeNibble _ _ _
  all_goals exact strobesWhole_sendByte _ _

/-! ## The bytes ExpanderWrite is given and the bytes it writes (R140, R141) -/

section
variable (c : Cfg) (w : Shadow) (x : WriteArg)

/-- The backlight line of a byte written is the backlight bit's alone. -/
theorem writeArg_bl (on : Bool) : lineHigh (x.byte c w ||| backlightBit c on) (blMask c) = on := by
  cases x with
  | zero => exact zero_bl c on
  | nibble v half m en =>
    cases en with
    | true => rw [writeArg_high]; exact high_bl c on _ m
    | false => rw [writeArg_low]; exact low_bl c on _ m

/-- The read/write line of a byte written is low (20_memory.md R73). -/
theorem writeArg_rw (on : Bool) : lineHigh (x.byte c w ||| backlightBit c on) (rwMask c) = false := by
  cases x with
  | zero => exact zero_rw c on
  | nibble v half m en =>
    cases en with
    | true => rw [writeArg_high]; exact high_rw c on _ m
    | false => rw [writeArg_low]; exact low_rw c on _ m

/-- An argument leaves the backlight line low: ORing in a backlight bit of 0 changes nothing. -/
theorem writeArg_bl_low : lineHigh (x.byte c w) (blMask c) = false := by
  simpa [backlightBit] using writeArg_bl c w x false

theorem modeBits_cases (m : Mode) : modeBits c m = 0x00 ∨ modeBits c m = rsMask c := by
  cases m with
  | command => exact .inl rfl
  | data => exact .inr rfl

/-- An argument is 0x00, or a nibble with a mode and the enable line or nothing (R141). -/
theorem writeArg_cases : x.byte c w = 0x00 ∨ ∃ (n : Nibble) (m e : Byte), x.byte c w = dataBits c n ||| m ||| e ∧
    (m = 0x00 ∨ m = rsMask c) ∧ (e = 0x00 ∨ e = enMask c) := by
  cases x with
  | zero => exact .inl rfl
  | nibble v half mode en =>
    cases en with
    | true => exact .inr ⟨_, modeBits c mode, enMask c, writeArg_high .., modeBits_cases c mode, .inr rfl⟩
    | false =>
      have h := (writeArg_low c mode w v half).trans BitVec.or_zero.symm
      exact .inr ⟨_, modeBits c mode, 0x00, h, modeBits_cases c mode, .inl rfl⟩

end

/-- A byte written with backlight flag `on`: the flag is on the backlight line, and the read/write line is low. -/
structure CarriesBacklight (c : Cfg) (on : Bool) (b : Byte) : Prop where
  backlight : lineHigh b (blMask c) = on
  notRead : lineHigh b (rwMask c) = false

theorem CarriesBacklight.of_exp8Lines {c : Cfg} {on : Bool} {b : Byte} (h : CarriesBacklight c on b)
    (hlines : c.lines = exp8Lines) : b.getLsbD 3 = on ∧ b.getLsbD 1 = false := by
  obtain ⟨-, -, -, -, -, -, -, hread⟩ := exp8Literals.2 c hlines
  obtain ⟨-, -, -, hrw, hbl⟩ := hread b
  exact ⟨hbl ▸ h.backlight, hrw ▸ h.notRead⟩

/-! ## The bytes of a run -/

/-- The trace of `t` is that of `s` and events whose writes are all of bytes that meet `p`. -/
def NewBytes (p : Byte → Prop) (s t : State) : Prop :=
  ∃ ev, t.trace = s.trace ++ ev ∧ ∀ a b, Event.wr a b ∈ ev → p b

section
variable {p : Byte → Prop} {s t u : State}

theorem NewBytes.of_eq (h : t.trace = s.trace) : NewBytes p s t := ⟨[], by rw [h, List.append_nil], by simp⟩

theorem NewBytes.trans (h : NewBytes p s t) (g : NewBytes p t u) : NewBytes p s u := by
  obtain ⟨e, he, hp⟩ := h
  obtain ⟨f, hf, hq⟩ := g
  refine ⟨e ++ f, by rw [hf, he, List.append_assoc], fun a b hab => ?_⟩
  exact (List.mem_append.mp hab).elim (hp a b) (hq a b)

end

/-- A failure adds its response (60_exceptions.md R244). -/
theorem State.transportFailure_newBytes (p : Byte → Prop) (s : State) (b : Byte) :
    NewBytes p s (s.transportFailure b) := ⟨[.resp (failureStatus s b)], rfl, by simp⟩

/-- `MemWrite` makes one write, of its byte, however the bus answers (00_scope.md R15). -/
theorem State.memWrite_newBytes {p : Byte → Prop} (s : State) {b : Byte} (hb : p b) :
    NewBytes p s (s.memWrite b).state := by
  have hissued {t : State} (ht : t.trace = s.trace ++ [.wr s.cfg.addr b]) : NewBytes p s t :=
    ⟨_, ht, by simp [hb]⟩
  rcases s.memWrite_cases b with ⟨-, h⟩ | ⟨-, h⟩ | ⟨-, h⟩ <;> rw [h]
  · exact hissued (by simp [Progress.state, State.wrote])
  · exact (hissued (by simp)).trans (State.transportFailure_newBytes p _ b)
  · exact (hissued (by simp)).trans (State.transportFailure_newBytes p _ b)

/-- A write micro-step adds `pc <- pc + 1` to its ExpanderWrite, if that goes on (10_state.md R22). -/
theorem State.micro_write_trace (s : State) (x : WriteArg) :
    (s.micro (.write x)).state.trace = (s.expanderWrite (x.byte s.cfg s.w)).state.trace := by
  simp only [State.micro]
  cases s.expanderWrite (x.byte s.cfg s.w) <;> rfl

/-- Every byte a micro-step writes carries the working copy's backlight flag (R140, R141). -/
theorem State.micro_newBytes (s : State) (m : Micro) :
    NewBytes (CarriesBacklight s.cfg s.w.backlightOn) s (s.micro m).state := by
  cases m with
  | write x =>
    have hb : CarriesBacklight s.cfg s.w.backlightOn (x.byte s.cfg s.w ||| backlightBit s.cfg s.w.backlightOn) :=
      ⟨writeArg_bl s.cfg s.w x _, writeArg_rw s.cfg s.w x _⟩
    exact (s.memWrite_newBytes hb).trans (.of_eq (s.micro_write_trace x))
  | sleep d => exact ⟨[.dly (d.micros s.cfg)], rfl, by simp⟩
  | sleepReady d => exact ⟨[.dly (d.micros s.cfg)], rfl, by simp⟩
  | assign a => exact .of_eq (by simp [State.micro, Progress.state])

/-- Settles O24: the arguments by their two shapes, the writes by what ExpanderWrite ORs in. -/
theorem writesCarryBacklight : Obligations.WritesCarryBacklight := by
  refine ⟨fun c w _ x _ => ⟨writeArg_bl_low c w x, writeArg_cases c w x, fun hlines => ?_⟩, fun _ s m _ => ?_⟩
  · obtain ⟨-, hen, -, hrs, hdata, -, -, hread⟩ := exp8Literals.2 c hlines
    obtain ⟨-, -, -, -, hbl⟩ := hread (x.byte c w)
    have hcases := writeArg_cases c w x
    simp only [hdata, hrs, hen] at hcases
    exact ⟨hbl ▸ writeArg_bl_low c w x, hcases⟩
  · obtain ⟨ev, hev, hcarry⟩ := s.micro_newBytes m
    refine ⟨ev, hev, ?_⟩
    rintro _ he a b rfl
    have hb := hcarry a b he
    exact ⟨hb.backlight, hb.notRead, hb.of_exp8Lines⟩

/-- Without assignments the flag stays the same along a run, so every byte of it carries the flag it began with. -/
theorem State.runMicros_newBytes (s : State) {l : List Micro} (h : l.any Micro.isAssign = false) :
    NewBytes (CarriesBacklight s.cfg s.w.backlightOn) s (s.runMicros l).state := by
  induction l generalizing s with
  | nil => exact .of_eq rfl
  | cons m l ih =>
    simp only [List.any_cons, Bool.or_eq_false_iff] at h
    have hbytes := s.micro_newBytes m
    have hcfg := (s.micro_keeps m).cfg
    rw [State.runMicros_cons]
    cases hm : s.micro m with
    | going t =>
      rw [hm] at hbytes hcfg
      obtain ⟨rfl, -⟩ := State.micro_going hm
      replace hcfg : (s.okMicro m).cfg = s.cfg := hcfg
      obtain ⟨hw, -⟩ := s.okMicro_w_sh h.1
      have hrest := ih (s.okMicro m) h.2
      rw [hw, hcfg] at hrest
      exact hbytes.trans hrest
    | aborted t => rwa [hm] at hbytes

/-- The list of a request that leaves the backlight flag alone: at most the assignment of another flag comes before
its writes. -/
theorem State.runMicros_program_newBytes (s : State) {i : Instr} (hi : i ≠ .init)
    (hflag : ∀ v, flagAssigned i ≠ some (.backlightOn, v)) :
    NewBytes (CarriesBacklight s.cfg s.w.backlightOn) s (s.runMicros (program s.cfg i)).state := by
  cases hf : flagAssigned i with
  | none => exact s.runMicros_newBytes (program_no_assign s.cfg hf hi)
  | some p =>
    obtain ⟨f, v⟩ := p
    obtain ⟨l, hl, hno⟩ := program_of_flagAssigned s.cfg hf
    have hflagKept : (s.assign [(f, v)]).w.backlightOn = s.w.backlightOn := by
      rw [State.assign_w]
      cases f with
      | backlightOn => exact absurd hf (hflag v)
      | _ => rfl
    have hrun := (s.assign [(f, v)]).nextPc.runMicros_newBytes hno
    rw [State.nextPc_cfg, State.assign_cfg, State.nextPc_w, hflagKept] at hrun
    rw [hl]
    exact NewBytes.trans (.of_eq (by simp)) hrun

theorem Progress.settle_newBytes (p : Byte → Prop) (r : Progress) : NewBytes p r.state r.settle := by
  cases r with
  | going t => exact ⟨[.resp okStatus], rfl, by simp⟩
  | aborted t => exact .of_eq rfl

/-- BACKLIGHT_ON and BACKLIGHT_OFF are the flag requests of the backlight flag (10_state.md R23). -/
theorem flagAssigned_ne_backlight {i : Instr} (hon : i ≠ .backlightOn) (hoff : i ≠ .backlightOff) (v : Bool) :
    flagAssigned i ≠ some (.backlightOn, v) := by
  intro h
  cases i <;> cases h
  case backlightOn => exact hon rfl
  case backlightOff => exact hoff rfl

/-- Settles O25: acceptance copies the shadow register's flag to the working copy, and nothing assigns it again. -/
theorem requestWritesCarryBacklight : Obligations.RequestWritesCarryBacklight := by
  intro i s t hr hinit hon hoff hb ht
  rw [exec_request s hr, performRequest_idle hb] at ht
  obtain rfl := Host.Outcome.next.inj ht
  have hrun := (s.accept i).runMicros_program_newBytes hinit (flagAssigned_ne_backlight hon hoff)
  rw [State.accept_cfg, State.accept_w] at hrun
  obtain ⟨ev, hev, hcarry⟩ := hrun.trans (Progress.settle_newBytes _ _)
  rw [State.accept_trace] at hev
  refine ⟨ev, hev, fun a b hab => ?_⟩
  have hb := hcarry a b hab
  exact ⟨hb.backlight, fun hlines => (hb.of_exp8Lines hlines).1⟩

end Sys2Proof.Machine

/-! PROOF. The statements of 41_init.md: what INIT leaves when the bus completes its 25 writes (R167, R171, R175),
and what it leaves when one of them fails (R172). -/

namespace Sys2Proof.Machine

/-! ## INIT without failure -/

/-- INIT's function-set byte (R168). -/
theorem functionSetByte_eq (c : Cfg) : functionSetByte c = if 1 < c.rows.toNat then 0x28 else 0x20 := by
  by_cases h : 1 < c.rows.toNat <;> simp [functionSetByte, h, bit]

/-- Running on from where a run of INIT's pieces stands. -/
theorem State.initAt_initAt (s : State) {n m pc pc' k k' : Nat} {w w' sh sh' : Shadow} {p p' : Byte} {r r' : Rx}
    {x x' : List Transfer} {tr tr' : List Event} :
    (s.initAt n w sh pc k p r x tr).initAt m w' sh' pc' k' p' r' x' tr' =
      s.initAt (n + m) w' sh' pc' k' p' r' x' tr' := by
  simp [State.initAt, Nat.add_assoc]

/-- Micro-steps 0 to 56: the bring-up, then the programming (R167). -/
theorem State.init_run {s : State} (hok : s.busOk 25) (hrx : s.rx = .unknown) :
    let nib (n : Nibble) := nibbleEvents s.cfg s.w.backlightOn (dataBits s.cfg n)
    let cmd (v : Byte) : Transfer := { rs := .command, byte := v }
    let sent (v : Byte) := transferEvents s.cfg s.w.backlightOn (cmd v)
    s.runMicros (initSteps s.cfg) = .going (s.initAt 25 initShadow
      (match s.cfg.policy with
        | .optimistic => initShadow
        | .confirmed => s.sh) (s.pc + 57) (s.k + 25) (blMask s.cfg) .hi
      (s.xfers ++ [cmd (functionSetByte s.cfg), cmd 0x0C, cmd 0x06, cmd 0x01])
      (s.trace ++ [Event.dly s.cfg.tPower] ++ nib 0x3 ++ [Event.dly s.cfg.tInit1] ++ nib 0x3 ++
        [Event.dly s.cfg.tInit2] ++ nib 0x3 ++ [Event.dly s.cfg.tInit3] ++ nib 0x2 ++
        sent (functionSetByte s.cfg) ++ sent 0x0C ++ sent 0x06 ++ sent 0x01 ++
        [Event.dly s.cfg.tSlow] ++ [Event.wr s.cfg.addr (blMask s.cfg)])) := by
  intro nib cmd sent
  refine State.runMicros_chain (State.bringUp_run (State.busOk_mono hok (by decide)) hrx) ?_
  refine (State.programSteps_run (State.initAt_busOk (n := 8) (m := 17) hok) rfl).trans ?_
  rw [State.initAt_initAt]
  rfl

/-- Settles O34: acceptance, the run of the 57 micro-steps, completion. -/
theorem initResult : Obligations.InitResult := by
  intro s hb hok c bl fs cmd nib
  have hok' : (s.accept .init).busOk 25 := State.busOk_congr (s.accept_bus .init) (s.accept_draws .init) hok
  have hfs : functionSetByte s.cfg = fs := functionSetByte_eq s.cfg
  have hrun := State.init_run hok' (s.accept_rx .init)
  rw [State.accept_cfg, hfs] at hrun
  rw [exec_of_going rfl hb hrun]
  cases hp : s.cfg.policy <;> simp [State.complete, State.initAt, hp, requestOpcode, c, bl, cmd, nib]

/-! ## A request that fails -/

/-- A request whose write number `j` fails ends at that write, the micro-steps before it performed (R246). -/
theorem exec_failed {i : Instr} {s : State} {j : Nat} (hr : i.isRequest = true) (hb : s.busy = false)
    (hj : j < writeCount (program s.cfg i)) (hok : s.busOk j) (hfail : s.answerAt j ≠ .ok) :
    ∃ before x rest u t, program s.cfg i = before ++ .write x :: rest ∧ writeCount before = j ∧
      (s.accept i).runMicros before = .going u ∧ u.micro (.write x) = .aborted t ∧ exec i s = .next t := by
  have hanswer (n : Nat) : (s.accept i).answerAt n = s.answerAt n :=
    State.answerAt_congr (s.accept_bus i) (s.accept_draws i) n
  obtain ⟨t, ht⟩ := exec_next i s
  rcases exec_request_cases hr ht with ⟨hb', -⟩ | ⟨-, u, hu, -⟩ | ⟨-, hu⟩
  · exact absurd (hb'.symm.trans hb) (by decide)
  · exact absurd ((hanswer j).symm.trans ((State.runMicros_going hu).2 j hj)) hfail
  · obtain ⟨before, x, rest, u, hlist, hbefore, hwrite, hx⟩ := State.runMicros_aborted hu
    obtain ⟨hgoes, hbeforeOk⟩ := State.runMicros_going hbefore
    rw [State.answerAt_drop hgoes.bus hgoes.draws, Nat.add_zero, hanswer] at hwrite
    have hcount : writeCount before = j := by
      rcases Nat.lt_trichotomy (writeCount before) j with h | h | h
      · exact absurd (hok _ h) hwrite
      · exact h
      · exact absurd ((hanswer j).symm.trans (hbeforeOk j h)) hfail
    exact ⟨before, x, rest, u, t, hlist, hcount, hbefore, hx, ht⟩

/-- What a failing write leaves, beside its response (60_exceptions.md R244). -/
theorem State.micro_aborted_fields {s t : State} {m : Micro} (h : s.micro m = .aborted t) :
    t.initDone = s.initDone ∧ t.synced = false ∧ t.rx = .unknown ∧ t.status.k = BitVec.ofNat 6 s.k := by
  obtain ⟨_, b, u, -, -, rfl, hu⟩ := State.micro_aborted h
  rcases hu with rfl | rfl <;> simp [failureStatus]

theorem assignments_cons (m : Micro) (l : List Micro) : assignments (m :: l) = assignments [m] ++ assignments l := by
  simp [assignments]

/-- Under OPTIMISTIC a micro-step that goes on leaves its assignments in the shadow register (10_state.md R31). -/
theorem State.okMicro_sh {s : State} (hp : s.cfg.policy = .optimistic) (m : Micro) :
    (s.okMicro m).sh = s.sh.assign (assignments [m]) := by
  cases m with
  | assign a => simp [State.okMicro, State.assign_sh, hp, assignments]
  | write x => exact (s.okMicro_w_sh rfl).2
  | sleep d => rfl
  | sleepReady d => rfl

/-- So does a run that goes on. -/
theorem State.runMicros_going_sh {s t : State} {l : List Micro} (hp : s.cfg.policy = .optimistic)
    (h : s.runMicros l = .going t) : t.sh = s.sh.assign (assignments l) := by
  induction l generalizing s with
  | nil => cases h; rfl
  | cons m l ih =>
    rw [State.runMicros_cons] at h
    cases hm : s.micro m with
    | aborted u => rw [hm] at h; cases h
    | going u =>
      rw [hm] at h
      have hcfg : u.cfg = s.cfg := by simpa only [hm, Progress.state] using (s.micro_keeps m).cfg
      obtain ⟨rfl, -⟩ := State.micro_going hm
      rw [ih (hcfg ▸ hp) h, State.okMicro_sh hp, assignments_cons m l]
      exact List.foldl_append.symm

/-! ## The flags assigned before a write -/

/-- The flags a list of micro-steps assigns before its write number `j`, counted from 0. -/
def assignmentsBefore : Nat → List Micro → List (Field × Bool)
  | _, [] => []
  | 0, .write _ :: _ => []
  | j + 1, .write _ :: l => assignmentsBefore j l
  | j, .sleep _ :: l => assignmentsBefore j l
  | j, .sleepReady _ :: l => assignmentsBefore j l
  | j, .assign a :: l => a ++ assignmentsBefore j l

/-- They are the assignments of the micro-steps before that write. -/
theorem assignmentsBefore_write (l r : List Micro) (x : WriteArg) :
    assignmentsBefore (writeCount l) (l ++ .write x :: r) = assignments l := by
  induction l with
  | nil => rfl
  | cons m l ih =>
    cases m with
    | write y =>
      rw [writeCount_cons]
      exact ih
    | sleep d => exact ih
    | sleepReady d => exact ih
    | assign a => exact congrArg (a ++ ·) ih

/-- A stretch without assignments, then an assignment: none is made before the stretch's writes. -/
theorem assignmentsBefore_stretch {l : List Micro} (hl : l.any Micro.isAssign = false) (j : Nat)
    (a : List (Field × Bool)) (r : List Micro) : assignmentsBefore j (l ++ .assign a :: r) =
      if j < writeCount l then [] else a ++ assignmentsBefore (j - writeCount l) r := by
  induction l generalizing j with
  | nil => rfl
  | cons m l ih =>
    simp only [List.any_cons, Bool.or_eq_false_iff] at hl
    cases m with
    | write x =>
      cases j with
      | zero => simp [assignmentsBefore, Micro.isWrite]
      | succ j => simpa [assignmentsBefore, Micro.isWrite] using ih hl.2 j
    | sleep d => exact ih hl.2 j
    | sleepReady d => exact ih hl.2 j
    | assign b => cases hl.1

/-- INIT assigns the display flags at micro-step 28, before its write 12, the entry flags at 37, before its write
16, and the backlight flag at 55, before its write 24 (R167, R172). -/
theorem assign_assignmentsBefore_init (c : Cfg) (w : Shadow) {j : Nat} (hj : j < 25) :
    w.assign (assignmentsBefore j (program c .init)) =
      if j < 12 then w
      else if j < 16 then { w with displayOn := true, cursorOn := false, blinkOn := false }
      else if j < 24 then { initShadow with backlightOn := w.backlightOn }
      else initShadow := by
  have hlist : program c .init =
      bringUpSteps ++ sendByte (.lit (functionSetByte c)) .command ++
        Micro.assign [(.displayOn, true), (.cursorOn, false), (.blinkOn, false)] ::
      (sendByte .displayControl .command ++
        Micro.assign [(.entryLeft, true), (.entryShift, false)] ::
      (sendByte .entryMode .command ++ sendByte (.lit 0x01) .command ++ [Micro.sleep .slow] ++
        Micro.assign [(.backlightOn, true)] :: [Micro.write .zero])) := rfl
  have h16 : j - 12 < 4 ↔ j < 16 := by omega
  have h24 : j - 12 - 4 < 8 ↔ j < 24 := by omega
  rw [hlist, assignmentsBefore_stretch rfl, assignmentsBefore_stretch rfl, assignmentsBefore_stretch rfl]
  change w.assign (if j < 12 then [] else _ ++ if j - 12 < 4 then [] else _ ++ if j - 12 - 4 < 8 then [] else _) = _
  simp only [h16, h24]
  by_cases h : j < 12
  · simp only [if_pos h]
    rfl
  by_cases h' : j < 16
  · simp only [if_neg h, if_pos h']
    rfl
  by_cases h'' : j < 24
  · simp only [if_neg h, if_neg h', if_pos h'']
    rfl
  · obtain rfl : j = 24 := by omega
    rfl

/-- Settles O56: INIT ends at the failing write, with the flags it assigned before that write. -/
theorem initFailure : Obligations.InitFailure := by
  intro s j hb hj hok hfail
  obtain ⟨before, x, rest, u, t, hlist, hcount, hbefore, hx, ht⟩ := exec_failed (i := .init) rfl hb hj hok hfail
  have hgoes := (State.runMicros_going hbefore).1
  have hkeeps : Keeps (s.accept .init) u := by
    simpa only [hbefore, Progress.state] using (s.accept .init).runMicros_keeps before
  obtain ⟨hactive, hcode, -⟩ := State.micro_aborted_response hx
  obtain ⟨hdone, hsynced, hrx, hk⟩ := State.micro_aborted_fields hx
  have huk : u.k = j := by rw [hgoes.k, State.accept_k, Nat.zero_add, hcount]
  refine ⟨t, ht, hactive, hcode, hk.trans (congrArg _ huk), hdone.trans hkeeps.initDone, hsynced, hrx, ?_⟩
  rw [State.micro_aborted_sh hx]
  cases hp : s.cfg.policy with
  | confirmed => exact hgoes.shConfirmed hp
  | optimistic =>
    rw [State.runMicros_going_sh (s := s.accept .init) hp hbefore,
      ← assignmentsBefore_write before rest x, ← hlist, hcount]
    exact assign_assignmentsBefore_init s.cfg s.sh hj

end Sys2Proof.Machine

/-! PROOF. The statements of 42_commands.md: the whole next state of each steady-state command request when the
bus completes its writes (R180 to R201), SETCURSOR's address (R182 to R186) and the round trip of R202. -/

namespace Sys2Proof.Machine

/-! ## Requests other than INIT, up to their completion -/

/-- A request accepted, its flags assigned. -/
def State.flagged (s : State) (i : Instr) (a : List (Field × Bool)) : State :=
  { (s.accept i).assign a with pc := a.length }

/-- A request other than INIT just before its completion: accepted, its flags assigned, its transfers sent. -/
def State.performed (s : State) (i : Instr) (a : List (Field × Bool)) (steps writes : Nat) (last : Byte)
    (events : List Event) (ts : List Transfer) : State :=
  { (s.flagged i a).received ts with
    pc := steps, k := writes, latch := last, trace := s.trace ++ events
    bus := s.bus.drop writes, draws := s.draws + writes }

theorem State.flagged_busOk {s : State} {n : Nat} (h : s.busOk n) (i : Instr) (a : List (Field × Bool)) :
    (s.flagged i a).busOk n :=
  State.busOk_congr (by simp [State.flagged]) (by simp [State.flagged]) h

/-- One flag assigned a micro-step. -/
theorem State.runMicros_assigns (s : State) (a : List (Field × Bool)) :
    s.runMicros (a.map fun p => .assign [p]) = .going { s.assign a with pc := s.pc + a.length } := by
  induction a generalizing s with
  | nil => cases hp : s.cfg.policy <;> simp [State.assign, Shadow.assign, hp]
  | cons p a ih =>
    rw [List.map_cons, State.runMicros_cons]
    show State.runMicros _ _ = _
    rw [ih]
    cases hp : s.cfg.policy <;> simp [State.assign, Shadow.assign, State.nextPc, hp] <;> omega

/-- Under either policy completion leaves the assigned flags in both copies of the register (R31, R242). -/
theorem State.performed_complete (s : State) {i : Instr} (hi : i ≠ .init) (a : List (Field × Bool))
    (steps writes : Nat) (last : Byte) (events : List Event) (ts : List Transfer) :
    (s.performed i a steps writes last events ts).complete =
      s.afterRequest (requestOpcode i) steps writes (s.sh.assign a) last events ts := by
  cases hp : s.cfg.policy <;>
    simp [State.performed, State.flagged, State.complete, State.afterRequest, State.received_eq,
      State.accept_of_ne_init s hi, State.assign, hp, hi]

section
variable {s : State} {i : Instr} (hr : i.isRequest = true) (hi : i ≠ .init) (hb : s.busy = false)
  {a : List (Field × Bool)}
include hr hi hb

/-- A request whose list assigns flags and then runs without failure. -/
theorem exec_of_performed {l : List Micro} {steps writes : Nat} {last : Byte} {events : List Event}
    {ts : List Transfer} (hlist : program s.cfg i = (a.map fun p => .assign [p]) ++ l)
    (hrun : (s.flagged i a).runMicros l = .going (s.performed i a steps writes last events ts)) :
    exec i s = .next (s.afterRequest (requestOpcode i) steps writes (s.sh.assign a) last events ts) := by
  have hflags : (s.accept i).runMicros (a.map fun p => .assign [p]) = .going (s.flagged i a) := by
    rw [State.runMicros_assigns, State.accept_pc, Nat.zero_add]
    rfl
  rw [← State.performed_complete s hi]
  exact exec_of_going hr hb (hlist ▸ State.runMicros_chain hflags hrun)

/-- A request whose list assigns flags, sends one byte, read from the flags so assigned where it is a bundle, and
waits. -/
theorem exec_of_one_transfer {v : Value} {m : Mode} {ds : List Delay} (hok : s.busOk 4)
    (hlist : program s.cfg i = (a.map fun p => .assign [p]) ++ (sendByte v m ++ ds.map .sleep)) :
    exec i s = .next (s.afterTransfer (requestOpcode i) (a.length + 8 + ds.length) (s.sh.assign a)
      { rs := m, byte := v.eval (s.sh.assign a) } (ds.map fun d => .dly (d.micros s.cfg))) := by
  refine exec_of_performed hr hi hb hlist ?_
  refine State.runMicros_chain (sendByte_run v m (State.flagged_busOk hok i a)) ?_
  rw [State.runMicros_sleeps, State.sent_eq]
  simp [State.performed, State.flagged, State.received_eq]

/-- A request whose list assigns flags and then writes the backlight bit alone (R194). -/
theorem exec_of_zero_write (hok : s.busOk 1) (hlow : s.rx ≠ .unknown → lineHigh s.latch (enMask s.cfg) = false)
    (hlist : program s.cfg i = (a.map fun p => .assign [p]) ++ [.write .zero]) :
    let b := backlightBit s.cfg (s.sh.assign a).backlightOn
    exec i s = .next (s.afterRequest (requestOpcode i) (a.length + 1) 1 (s.sh.assign a) b [.wr s.cfg.addr b] []) := by
  refine exec_of_performed hr hi hb hlist ((State.runMicros_ok (State.flagged_busOk hok i a)).trans ?_)
  rw [List.foldl_cons, List.foldl_nil, State.okMicro_zero _ (by simpa [State.flagged, hi] using hlow)]
  simp [State.performed, State.flagged, State.received, State.wroteQuietly]

end

/-! ## CLEAR, HOME and the scrolls -/

/-- Settles O36: each list is one command byte and T_SLOW. -/
theorem clearHomeResult : Obligations.ClearHomeResult := by
  intro s hb hok
  exact ⟨exec_of_one_transfer (i := .clear) (a := []) (v := .lit 0x01) (ds := [.slow]) rfl nofun hb hok rfl,
    exec_of_one_transfer (i := .home) (a := []) (v := .lit 0x02) (ds := [.slow]) rfl nofun hb hok rfl⟩

/-- Settles O41: each list is one command byte. -/
theorem scrollResult : Obligations.ScrollResult := by
  intro s hb hok
  exact ⟨exec_of_one_transfer (i := .scrollLeft) (a := []) (v := .lit 0x18) (ds := []) rfl nofun hb hok rfl,
    exec_of_one_transfer (i := .scrollRight) (a := []) (v := .lit 0x1C) (ds := []) rfl nofun hb hok rfl⟩

/-! ## The flag requests -/

/-- The bits of the display-control bundle stand in different places, so ORing is adding (R187). -/
theorem displayControlByte_eq (w : Shadow) : displayControlByte w = displayControlOf w := by
  obtain ⟨_, d, c, b, _, _⟩ := w
  cases d <;> cases c <;> cases b <;> simp [displayControlByte, displayControlOf, bit]

/-- So do those of the entry-mode bundle (R198). -/
theorem entryModeByte_eq (w : Shadow) : entryModeByte w = entryModeOf w := by
  obtain ⟨_, _, _, _, l, t⟩ := w
  cases l <;> cases t <;> simp [entryModeByte, entryModeOf, bit]

/-- A request that assigns one flag and sends a bundle of the register it has then. -/
theorem exec_of_flag_bundle {s : State} {i : Instr} {f : Field} {x : Bool} {v : Value} {bundle : Shadow → Byte}
    (hr : i.isRequest = true) (hi : i ≠ .init) (hb : s.busy = false) (hok : s.busOk 4)
    (hlist : program s.cfg i = .assign [(f, x)] :: sendByte v .command) (hbundle : ∀ w, v.eval w = bundle w) :
    exec i s = .next (s.afterTransfer (requestOpcode i) 9 (s.sh.set f x)
      { rs := .command, byte := bundle (s.sh.set f x) } []) := by
  rw [← hbundle]
  exact exec_of_one_transfer (a := [(f, x)]) (ds := []) hr hi hb hok hlist

/-- Settles O39: each request is an assignment and the display-control bundle. -/
theorem displayControlResult : Obligations.DisplayControlResult := by
  intro s hb hok
  have h {i : Instr} {f : Field} {x : Bool} (hr : i.isRequest = true) (hi : i ≠ .init)
      (hlist : program s.cfg i = displayControlSteps f x) :=
    exec_of_flag_bundle hr hi hb hok hlist displayControlByte_eq
  exact ⟨h (f := .displayOn) (x := true) rfl nofun rfl, h (f := .displayOn) (x := false) rfl nofun rfl,
    h (f := .cursorOn) (x := true) rfl nofun rfl, h (f := .cursorOn) (x := false) rfl nofun rfl,
    h (f := .blinkOn) (x := true) rfl nofun rfl, h (f := .blinkOn) (x := false) rfl nofun rfl⟩

/-- Settles O42: each request is an assignment and the entry-mode bundle. -/
theorem entryModeResult : Obligations.EntryModeResult := by
  intro s hb hok
  have h {i : Instr} {f : Field} {x : Bool} (hr : i.isRequest = true) (hi : i ≠ .init)
      (hlist : program s.cfg i = entryModeSteps f x) :=
    exec_of_flag_bundle hr hi hb hok hlist entryModeByte_eq
  exact ⟨h (f := .entryLeft) (x := true) rfl nofun rfl, h (f := .entryLeft) (x := false) rfl nofun rfl,
    h (f := .entryShift) (x := true) rfl nofun rfl, h (f := .entryShift) (x := false) rfl nofun rfl⟩

/-- Settles O40: an assignment and one write of the backlight line alone, high or low. -/
theorem backlightResult : Obligations.BacklightResult := by
  intro s hb hok hlow
  have hon := exec_of_zero_write (i := .backlightOn) (a := [(.backlightOn, true)]) rfl nofun hb hok hlow rfl
  have hoff := exec_of_zero_write (i := .backlightOff) (a := [(.backlightOn, false)]) rfl nofun hb hok hlow rfl
  exact ⟨hon, hoff⟩

/-! ## SETCURSOR -/

/-- The command bit above a 7-bit address: ORing it is adding it (R186). -/
theorem setDdramByte_ofNat (n : Nat) : setDdramByte (BitVec.ofNat 7 n) = BitVec.ofNat 8 (0x80 + n % 0x80) := by
  have h (a : BitVec 7) : setDdramByte a = BitVec.ofNat 8 (0x80 + a.toNat) := by revert a; decide
  rw [h, BitVec.toNat_ofNat]

/-- Settles O37: one command byte, its address clamped and reduced. -/
theorem setcursorResult : Obligations.SetcursorResult := by
  intro s col row hb hok a
  rw [← setDdramByte_ofNat]
  exact exec_of_one_transfer (i := .setcursor col row) (a := []) (v := .lit (setcursorByte s.cfg col row)) (ds := [])
    rfl nofun hb hok rfl

/-- A receiver in step is delivered the one transfer and is in step again. -/
theorem State.afterTransfer_hi {s : State} (hrx : s.rx = .hi) (op : Byte) (steps : Nat) (sh' : Shadow) (t : Transfer)
    (tail : List Event) :
    (s.afterTransfer op steps sh' t tail).rx = .hi ∧ (s.afterTransfer op steps sh' t tail).xfers = s.xfers ++ [t] := by
  rw [State.afterTransfer, State.afterRequest, State.received_hi [t] hrx]
  exact ⟨hrx, rfl⟩

theorem rows_pos {c : Cfg} (hrows : c.rows ≠ 0) : 0 < c.rows.toNat :=
  Nat.pos_of_ne_zero fun h => hrows (BitVec.eq_of_toNat_eq h)

/-- The clamped row by comparison: the last row from ROWS on (R183). -/
theorem clampRow_eq {c : Cfg} (hrows : c.rows ≠ 0) (row : BitVec 8) :
    clampRow c row = if c.rows ≤ row then c.rows.toNat - 1 else row.toNat := by
  have hpos := rows_pos hrows
  unfold clampRow
  split
  case isTrue h =>
    have hle := BitVec.le_def.mp h
    omega
  case isFalse h =>
    have hlt := BitVec.lt_def.mp (BitVec.not_le.mp h)
    omega

/-- ORed into a byte whose bit 7 may be set, the command bit replaces that bit (R186). -/
theorem or_commandBit (a : Nat) : (0x80 ||| a) % 0x100 = 0x80 + a % 0x80 := by
  have hbyte : ∀ x : Byte, (0x80 ||| x).toNat = 0x80 + x.toNat % 0x80 := by decide
  have h := hbyte (BitVec.ofNat 8 a)
  rw [BitVec.toNat_or, BitVec.toNat_ofNat] at h
  have hor : (0x80 ||| a) % 0x100 = 0x80 ||| a % 0x100 := Nat.or_mod_two_pow (n := 8)
  rw [hor, ← Nat.mod_mod_of_dvd a (by decide : 0x80 ∣ 0x100)]
  exact h

/-- Settles O38: the byte of O37, with the clamped row by comparison. -/
theorem setcursorCommandByte : Obligations.SetcursorCommandByte := by
  intro s col row hb hok hrx hrows a
  have ha : col.toNat + clampRow s.cfg row * 0x40 = a := by rw [clampRow_eq hrows]
  have hexec := setcursorResult s col row hb hok
  have hbyte : (BitVec.ofNat 8 (0x80 + a % 0x80)).toNat = 0x80 + a % 0x80 := by
    rw [BitVec.toNat_ofNat]
    omega
  rw [clampRow] at ha
  rw [ha] at hexec
  exact ⟨_, _, hexec, (State.afterTransfer_hi hrx ..).2, hbyte, hbyte.trans (or_commandBit a).symm⟩

/-! ## Requests with the same list -/

/-- The state with another request in progress. -/
def State.holding (j : Instr) (s : State) : State := { s with active := some j }

@[simp] theorem State.holding_cfg (s : State) (j : Instr) : (s.holding j).cfg = s.cfg := rfl

@[simp] theorem State.holding_w (s : State) (j : Instr) : (s.holding j).w = s.w := rfl

@[simp] theorem State.holding_answerAt (s : State) (j : Instr) (n : Nat) :
    (s.holding j).answerAt n = s.answerAt n := rfl

/-- An operation that goes on, with another request in progress. -/
def Progress.holding (j : Instr) : Progress → Progress
  | .going s => .going (s.holding j)
  | .aborted s => .aborted s

theorem State.land_holding (s : State) (j : Instr) (b : Byte) : (s.holding j).land b = (s.land b).holding j := by
  simp only [State.land, State.receive, State.latchNibble_eq, State.holding]
  split
  · rfl
  · split <;> rfl

theorem State.memWrite_holding (s : State) (j : Instr) (b : Byte) :
    (s.holding j).memWrite b = (s.memWrite b).holding j := by
  have hissued : ((s.holding j).emit (.wr s.cfg.addr b)).takeAnswer =
      (s.emit (.wr s.cfg.addr b)).takeAnswer.holding j := rfl
  simp only [State.memWrite, State.holding_answerAt, State.holding_cfg, hissued, State.land_holding]
  cases s.answerAt 0 <;> rfl

/-- No micro-step reads which request is in progress. -/
theorem State.micro_holding (s : State) (j : Instr) (m : Micro) :
    (s.holding j).micro m = (s.micro m).holding j := by
  cases m with
  | write x =>
    simp only [State.micro, State.expanderWrite, State.holding_cfg, State.holding_w, State.memWrite_holding]
    cases s.memWrite (x.byte s.cfg s.w ||| backlightBit s.cfg s.w.backlightOn) <;> rfl
  | sleep d => rfl
  | sleepReady d => rfl
  | assign a =>
    simp only [State.micro, State.assign, State.holding, Progress.holding]
    cases s.cfg.policy <;> rfl

theorem State.runMicros_holding (s : State) (j : Instr) (l : List Micro) :
    (s.holding j).runMicros l = (s.runMicros l).holding j := by
  induction l generalizing s with
  | nil => rfl
  | cons m l ih =>
    rw [State.runMicros_cons, State.runMicros_cons, State.micro_holding]
    cases s.micro m with
    | going t => exact ih t
    | aborted t => rfl

/-- Two requests other than INIT with the same opcode and the same list do the same, whatever the bus answers. -/
theorem exec_congr_list {s : State} {i j : Instr} (hi : i.isRequest = true) (hj : j.isRequest = true)
    (hi' : i ≠ .init) (hj' : j ≠ .init) (hop : requestOpcode i = requestOpcode j)
    (hlist : program s.cfg i = program s.cfg j) (hb : s.busy = false) : exec i s = exec j s := by
  have haccept : s.accept j = (s.accept i).holding j := by
    rw [State.accept_of_ne_init s hi', State.accept_of_ne_init s hj', hop]
    rfl
  rw [exec_request s hi, exec_request s hj, performRequest_idle hb, performRequest_idle hb, haccept,
    State.runMicros_holding, hlist]
  cases hrun : (s.accept i).runMicros (program s.cfg j) with
  | aborted t => rfl
  | going t =>
    have hactive : t.active = some i := (State.runMicros_going hrun).1.active.trans (State.accept_active s i)
    simp [Progress.holding, Progress.settle, State.complete, State.holding, hactive,
      beq_false_of_ne hi', beq_false_of_ne hj']

/-- From ROWS on every row is clamped to the last (R183). -/
theorem setcursorByte_clamped {c : Cfg} (hrows : c.rows ≠ 0) (col : BitVec 8) {row : BitVec 8} (h : c.rows ≤ row) :
    setcursorByte c col row = setcursorByte c col (c.rows - 1) := by
  have hlast : clampRow c (c.rows - 1) = c.rows.toNat - 1 := by
    rw [clampRow, BitVec.toNat_sub_of_le (x := c.rows) (y := 1) (BitVec.le_def.mpr (rows_pos hrows))]
    exact Nat.min_self _
  rw [setcursorByte, setcursorByte, clampRow_eq hrows, if_pos h, hlast]

/-- Settles O48: the clamped rows give the same list. -/
theorem setcursorRowClamped : Obligations.SetcursorRowClamped := by
  intro s col row hb hrows hrow
  refine exec_congr_list rfl rfl nofun nofun rfl ?_ hb
  exact congrArg commandSteps (setcursorByte_clamped hrows col hrow)

/-! ## The round trip of the display flags -/

/-- A display-control request to a receiver in step, and where it leaves the next one. -/
theorem exec_displayControl_delivers {s : State} {i : Instr} {f : Field} {x : Bool} {n : Nat}
    (hr : i.isRequest = true) (hi : i ≠ .init) (hb : s.busy = false) (hok : s.busOk (4 + n)) (hrx : s.rx = .hi)
    (hlist : program s.cfg i = displayControlSteps f x) :
    ∃ t, exec i s = .next t ∧ t.busy = false ∧ t.busOk n ∧ t.rx = .hi ∧ t.sh = s.sh.set f x ∧
      t.xfers = s.xfers ++ [{ rs := .command, byte := displayControlOf (s.sh.set f x) }] := by
  obtain ⟨hrx', hx⟩ := State.afterTransfer_hi hrx (requestOpcode i) 9 (s.sh.set f x)
    { rs := .command, byte := displayControlOf (s.sh.set f x) } []
  exact ⟨_, exec_of_flag_bundle hr hi hb (State.busOk_mono hok (Nat.le_add_right 4 n)) hlist displayControlByte_eq, rfl,
    State.busOk_drop (s := s) rfl rfl hok, hrx', rfl, hx⟩

/-- Settles O49: the third request sends the bundle with the flags the three have assigned. -/
theorem displayCursorBlinkRoundTrip : Obligations.DisplayCursorBlinkRoundTrip := by
  intro s hb hok hrx
  obtain ⟨a, ha, hab, haok, harx, hash, hax⟩ :=
    exec_displayControl_delivers (i := .displayOn) (f := .displayOn) (x := true) (n := 8) rfl nofun hb hok hrx rfl
  obtain ⟨b, hexb, hbb, hbok, hbrx, hbsh, hbx⟩ :=
    exec_displayControl_delivers (i := .cursorOn) (f := .cursorOn) (x := true) (n := 4) rfl nofun hab haok harx rfl
  obtain ⟨c, hexc, -, -, -, -, hcx⟩ :=
    exec_displayControl_delivers (i := .blinkOff) (f := .blinkOn) (x := false) (n := 0) rfl nofun hbb hbok hbrx rfl
  rw [hbx, hax, hbsh, hash, List.append_assoc, List.append_assoc] at hcx
  exact ⟨a, b, c, _, _, ha, hexb, hexc, hcx⟩

end Sys2Proof.Machine

/-! PROOF. The statements of 43_data.md: the whole next state of PUTC and CGDEF when the bus completes their
writes (R220 to R227), what they deliver to a receiver in step, and CGDEF's slot (R228). -/

namespace Sys2Proof.Machine

/-! ## PUTC -/

/-- The low eight bits of a code point, on naturals (R222). -/
theorem characterByte_eq (cp : BitVec 24) : characterByte cp = BitVec.ofNat 8 (cp.toNat % 256) :=
  BitVec.eq_of_toNat_eq (by simp [characterByte])

/-- Settles O43: the list is one character byte. -/
theorem putcResult : Obligations.PutcResult := by
  intro s cp hb hok
  rw [← characterByte_eq]
  exact exec_of_one_transfer (i := .putc cp) (a := []) (v := .lit (characterByte cp)) (ds := []) rfl nofun hb hok rfl

/-- Settles O44: the transfer of O43, delivered to a receiver in step. -/
theorem characterByteTruncated : Obligations.CharacterByteTruncated := by
  intro s cp hb hok hrx
  obtain ⟨t, hexec, -, -, hx, -⟩ := exec_putc_delivers cp hb hrx hok
  exact ⟨t, hexec, hx⟩

/-! ## CGDEF's slot -/

/-- The slot is masked before it is sent (R225). -/
theorem cgramByte_masked (slot : BitVec 8) : cgramByte (slot &&& 0x07) = cgramByte slot := by
  rw [cgramByte, cgramByte, BitVec.and_assoc, BitVec.and_self]

/-- The address bits stand below the command bit, so ORing is adding (R225). -/
theorem cgramByte_eq (slot : BitVec 8) : cgramByte slot = BitVec.ofNat 8 (0x40 + slot.toNat % 8 * 8) := by
  revert slot; decide

/-- Settles O47: the slot and its low three bits give the same list. -/
theorem cgdefSlotMasked : Obligations.CgdefSlotMasked := by
  intro s slot glyph hb
  have hlist : cgdefSteps slot glyph = cgdefSteps (slot &&& 0x07) glyph := by
    rw [cgdefSteps, cgdefSteps, cgramByte_masked]
  exact exec_congr_list rfl rfl nofun nofun rfl hlist hb

/-! ## CGDEF's transfers -/

/-- CGDEF's transfers: the CGRAM address, then the rows as given (R225, R226). -/
def cgdefTransfers (slot : BitVec 8) (glyph : List Byte) : List Transfer :=
  { rs := .command, byte := cgramByte slot } :: glyph.map fun r => { rs := .data, byte := r }

/-- A glyph of eight rows ends with row 7. -/
theorem getLast?_of_length_eight {glyph : List Byte} (h : glyph.length = 8) :
    glyph.getLast? = some (glyph.getD 7 0) := by
  rw [List.getLast?_eq_getElem?, List.getD_eq_getElem?_getD, h, List.getElem?_eq_getElem (by omega)]
  rfl

/-- The 72 micro-steps of a CGDEF whose writes the bus completes: the nine transfers, in order (R226). -/
theorem State.cgdefSteps_run {s : State} (slot : BitVec 8) {glyph : List Byte} (hg : glyph.length = 8)
    (hok : s.busOk 36) :
    let ts := cgdefTransfers slot glyph
    s.runMicros (cgdefSteps slot glyph) = .going { s.received ts with
      latch := lowNibbleByte s.cfg (glyph.getD 7 0) .data ||| backlightBit s.cfg s.w.backlightOn
      trace := s.trace ++ ts.flatMap (transferEvents s.cfg s.w.backlightOn)
      pc := s.pc + 72, k := s.k + 36, bus := s.bus.drop 36, draws := s.draws + 36 } := by
  intro ts
  have hcmd := sendByte_run (.lit (cgramByte slot)) .command (State.busOk_mono hok (by decide))
  have hrows : (s.sent { rs := .command, byte := cgramByte slot }).busOk (4 * glyph.length) :=
    State.busOk_drop (s := s) (m := 4) (by rw [State.sent_eq]) (by rw [State.sent_eq]) (hg ▸ hok)
  refine State.runMicros_chain hcmd ((State.runMicros_sends .data glyph hrows).trans ?_)
  rw [getLast?_of_length_eight hg, State.sent_eq]
  simp [ts, cgdefTransfers, State.received_eq, rxAfter, rxDelivered, hg, List.flatMap_map]

/-- Settles O45: acceptance, the run of the 72 micro-steps, completion. -/
theorem cgdefResult : Obligations.CgdefResult := by
  intro s slot glyph hg hb hok
  have hrun := State.cgdefSteps_run slot hg (State.flagged_busOk hok (.cgdef slot glyph) [])
  rw [← cgramByte_eq]
  refine exec_of_performed (i := .cgdef slot glyph) (a := []) rfl nofun hb rfl (hrun.trans ?_)
  simp [State.performed, State.flagged, State.received_eq, cgdefTransfers, Shadow.assign]

/-! ## CGDEF's costs -/

@[simp] theorem leastTime_append (c : Cfg) (l r : List Micro) :
    leastTime c (l ++ r) = leastTime c l + leastTime c r := by
  simp [leastTime]

/-- Each of a byte's four writes is followed by T_EDGE (R145). -/
@[simp] theorem leastTime_sendByte (c : Cfg) (v : Value) (m : Mode) : leastTime c (sendByte v m) = 4 * c.tEdge := by
  simp +arith [leastTime, sendByte, writeNibble, Delay.micros]

theorem leastTime_sendBytes (c : Cfg) (m : Mode) (rows : List Byte) :
    leastTime c (rows.flatMap fun r => sendByte (.lit r) m) = 4 * rows.length * c.tEdge := by
  induction rows with
  | nil => simp [leastTime]
  | cons r rows ih =>
    rw [List.flatMap_cons, leastTime_append, leastTime_sendByte, ih, List.length_cons, Nat.mul_add, Nat.add_mul,
      Nat.mul_one, Nat.add_comm]

/-- Settles O46: the transfers of O45, delivered to a receiver in step, and the sums over its nine bytes. -/
theorem glyphRowsSentUnmodified : Obligations.GlyphRowsSentUnmodified := by
  intro s slot glyph hg hb hok hrx
  refine ⟨⟨_, BitVec.ofNat 8 (0x40 + slot.toNat % 8 * 8), cgdefResult s slot glyph hg hb hok, ?_⟩, ?_, ?_, ?_⟩
  · rw [State.afterRequest, State.received_hi _ hrx]
  · rw [program, cgdefSteps, List.length_append, length_sendByte, length_sendBytes, hg]
  · rw [program, cgdefSteps, writeCount_append, writeCount_sendByte, writeCount_sendBytes, hg]
  · rw [program, cgdefSteps, leastTime_append, leastTime_sendByte, leastTime_sendBytes, hg]
    omega

end Sys2Proof.Machine

/-! PROOF. The statements of 60_exceptions.md: the failing write that ends a request (R244, R246), use before INIT
(R243), and that no step stops the block (R248). -/

namespace Sys2Proof.Machine

/-! ## The latch along a run -/

theorem lastWritten_append (p : Byte) (e f : List Event) :
    lastWritten p (e ++ f) = lastWritten (lastWritten p e) f := List.foldl_append

/-- The latch of `t` is the last byte written among the events since `s` (20_memory.md R66). -/
def LatchFollows (s t : State) : Prop := ∃ ev, t.trace = s.trace ++ ev ∧ t.latch = lastWritten s.latch ev

theorem LatchFollows.of_eq {s t : State} (ht : t.trace = s.trace) (hp : t.latch = s.latch) : LatchFollows s t :=
  ⟨[], by rw [ht, List.append_nil], hp⟩

theorem LatchFollows.trans {s t u : State} (h : LatchFollows s t) (g : LatchFollows t u) : LatchFollows s u := by
  obtain ⟨e, he, hp⟩ := h
  obtain ⟨f, hf, hq⟩ := g
  exact ⟨e ++ f, by rw [hf, he, List.append_assoc], by rw [hq, hp, lastWritten_append]⟩

/-- A completed write is the only micro-step that changes the latch. -/
theorem State.okMicro_latchFollows (s : State) (m : Micro) : LatchFollows s (s.okMicro m) := by
  cases m with
  | write x =>
    exact ⟨[.wr s.cfg.addr (x.byte s.cfg s.w ||| backlightBit s.cfg s.w.backlightOn)],
      by simp [State.okMicro, State.wrote], rfl⟩
  | sleep d => exact ⟨[.dly (d.micros s.cfg)], rfl, rfl⟩
  | sleepReady d => exact ⟨[.dly (d.micros s.cfg)], rfl, rfl⟩
  | assign a => exact .of_eq (s.assign_trace a) (s.assign_latch a)

theorem State.runMicros_latchFollows {s t : State} {l : List Micro} (h : s.runMicros l = .going t) :
    LatchFollows s t := by
  induction l generalizing s with
  | nil => cases h; exact .of_eq rfl rfl
  | cons m l ih =>
    rw [State.runMicros_cons] at h
    cases hm : s.micro m with
    | aborted u => rw [hm] at h; cases h
    | going u =>
      rw [hm] at h
      obtain ⟨rfl, -⟩ := State.micro_going hm
      exact (s.okMicro_latchFollows m).trans (ih h)

/-- The events of a run that goes on hold one `Wr` for each write of its list. -/
theorem State.runMicros_going_wr {s t : State} {l : List Micro} {ev : List Event} (h : s.runMicros l = .going t)
    (hev : t.trace = s.trace ++ ev) : ev.countP Event.isWr = writeCount l := by
  have hkeeps := s.runMicros_keeps l
  rw [h] at hkeeps
  obtain ⟨n, -, hdraws, hcount⟩ := hkeeps.bus
  have hn := (State.runMicros_going h).1.draws
  simp only [Progress.state, hev, List.countP_append] at hdraws hcount
  omega

/-! ## The failing write -/

/-- The receiver sees a byte land in the same way after the event and the bus's answer that come before it. -/
theorem State.issued_land_xfers (s : State) (e : Event) (b : Byte) :
    ((s.emit e).takeAnswer.land b).xfers = (s.land b).xfers := by
  rw [State.land_xfers, State.receive_issued, State.land_xfers]
  rfl

/-- A failing write of `b`: what it leaves in the trace, STATUS, the latch and XFERS, by the draw of R66 (R244). -/
structure FailedWrite (s t : State) (b : Byte) : Prop where
  trace : t.trace = s.trace ++ [.wr s.cfg.addr b, .resp t.status]
  status : t.status = failureStatus s b
  latchLanded : s.answerAt 0 = .failLanded → t.latch = b
  latchKept : s.answerAt 0 = .failOld → t.latch = s.latch
  xfersLanded : s.answerAt 0 = .failLanded → t.xfers = (s.land b).xfers
  xfersKept : s.answerAt 0 = .failOld → t.xfers = s.xfers
  xfersPrefix : t.xfers <+: (s.land b).xfers

/-- A micro-step that fails is a failed write of the byte that it writes where it goes on. -/
theorem State.micro_failedWrite {s t : State} {x : WriteArg} (h : s.micro (.write x) = .aborted t) :
    ∃ b, FailedWrite s t b ∧ (s.okMicro (.write x)).trace = s.trace ++ [.wr s.cfg.addr b] ∧
      (s.okMicro (.write x)).xfers = (s.land b).xfers := by
  obtain ⟨-, -, -, -, hfail, -⟩ := State.micro_aborted h
  refine ⟨x.byte s.cfg s.w ||| backlightBit s.cfg s.w.backlightOn, ?_, by simp [State.okMicro, State.wrote],
    s.issued_land_xfers _ _⟩
  rcases State.micro_fail (x := x) hfail with ⟨hdraw, ht⟩ | ⟨hdraw, ht⟩ <;> rw [ht] at h <;> cases h
  · exact ⟨by simp, rfl, by simp [hdraw], fun _ => rfl, by simp [hdraw], fun _ => rfl, s.land_xfers_prefix _⟩
  · have hx (b : Byte) := s.issued_land_xfers (.wr s.cfg.addr b) b
    exact ⟨by simp, by simp [failureStatus], fun _ => rfl, by simp [hdraw], fun _ => hx _, by simp [hdraw],
      hx _ ▸ List.prefix_refl _⟩

/-! ## The same request on a bus that fails no write -/

theorem State.accept_sameButBus {s t : State} (h : SameButBus s t) (i : Instr) :
    SameButBus (s.accept i) (t.accept i) := by
  obtain ⟨b, d, rfl⟩ := h
  unfold State.accept
  dsimp only
  split <;> exact ⟨b, d, rfl⟩

theorem SameButBus.recordsGrow {s t : State} (h : SameButBus s t) : RecordsGrow s t := by
  obtain ⟨b, d, rfl⟩ := h
  exact .of_eq rfl rfl

/-- A run that goes on past a micro-step has performed it, and then the rest. -/
theorem State.runMicros_past {s v u : State} {l r : List Micro} {m : Micro} (hl : s.runMicros l = .going v)
    (h : s.runMicros (l ++ m :: r) = .going u) : (v.okMicro m).runMicros r = .going u := by
  rw [State.runMicros_append, hl] at h
  change v.runMicros (m :: r) = _ at h
  rw [State.runMicros_cons] at h
  cases hm : v.micro m with
  | aborted w => rw [hm] at h; cases h
  | going w =>
    rw [hm] at h
    obtain ⟨rfl, -⟩ := State.micro_going hm
    exact h

/-- On a bus that completes every write the request records what it records up to any of its micro-steps, and
then more. -/
theorem exec_failureFree {i : Instr} {s s' v : State} {before rest : List Micro} {m : Micro}
    (hr : i.isRequest = true) (hb : s.busy = false) (hsame : SameButBus s s')
    (hok : s'.busOk (writeCount (program s.cfg i))) (hlist : program s.cfg i = before ++ m :: rest)
    (hbefore : (s.accept i).runMicros before = .going v) :
    ∃ u, exec i s' = .next u ∧ RecordsGrow (v.okMicro m) u := by
  have haccept := State.accept_sameButBus hsame i
  obtain ⟨hcfg, hbusy⟩ : s'.cfg = s.cfg ∧ s'.busy = s.busy := by
    obtain ⟨_, _, rfl⟩ := hsame
    exact ⟨rfl, rfl⟩
  replace hok : (s'.accept i).busOk (writeCount (program s.cfg i)) :=
    State.busOk_congr (s'.accept_bus i) (s'.accept_draws i) hok
  obtain ⟨r, hrun⟩ : ∃ r, (s'.accept i).runMicros (program s.cfg i) = .going r := ⟨_, State.runMicros_ok hok⟩
  have hbeforeOk : (s'.accept i).busOk (writeCount before) := State.busOk_mono hok (by simp [hlist])
  obtain ⟨v', hv', hvv'⟩ := State.runMicros_sameButBus haccept hbefore hbeforeOk
  have hrest := State.runMicros_past hv' (hlist ▸ hrun)
  have hgrow := ((v'.okMicro m).runMicros_keeps rest).recordsGrow
  rw [hrest] at hgrow
  exact ⟨_, exec_of_going hr (hbusy.trans hb) (hcfg ▸ hrun),
    ((State.okMicro_sameButBus m hvv').recordsGrow.trans hgrow).trans (State.complete_recordsGrow _)⟩

/-- Settles O53: the request ends at the failing write, in the state the micro-steps before it leave but for what
the failure changes (R244); on a bus that fails no write that write lands and the run goes on. -/
theorem failureEndsRequest : Obligations.FailureEndsRequest := by
  intro i s j hr hb hj hok hfail
  obtain ⟨before, x, rest, v, t, hlist, hcount, hbefore, hx, ht⟩ := exec_failed hr hb hj hok hfail
  have htake : (program s.cfg i).take before.length = before := by rw [hlist, List.take_left]
  -- up to the failing write
  have hgoes := (State.runMicros_going hbefore).1
  have hkeeps : Keeps (s.accept i) v := by
    simpa only [hbefore, Progress.state] using (s.accept i).runMicros_keeps before
  have hcfg : v.cfg = s.cfg := hkeeps.cfg.trans (s.accept_cfg i)
  have hdraw : v.answerAt 0 = s.answerAt j := by
    rw [State.answerAt_drop hgoes.bus hgoes.draws, hcount]
    exact State.answerAt_congr (s.accept_bus i) (s.accept_draws i) j
  obtain ⟨ev, hev, hlatch⟩ := State.runMicros_latchFollows hbefore
  have hwr := State.runMicros_going_wr hbefore hev
  rw [State.accept_trace] at hev
  rw [State.accept_latch] at hlatch
  -- the failing write
  obtain ⟨b, hw, hoktrace, hokxfers⟩ := State.micro_failedWrite hx
  obtain ⟨hdone, hsynced, hrx, -⟩ := State.micro_aborted_fields hx
  have hsh := State.micro_aborted_sh hx
  have hmark : t.fBeforeInit = (s.accept i).fBeforeInit := by
    have hkept := (v.micro_keeps (.write x)).fBeforeInit
    rw [hx] at hkept
    exact hkept.trans hkeeps.fBeforeInit
  have hstatus : t.status = ⟨.transportFailure, requestOpcode i, BitVec.ofNat 6 j, b⟩ := by
    rw [hw.status, failureStatus, hkeeps.op, State.accept_op, hgoes.k, State.accept_k, Nat.zero_add, hcount]
  -- the same request without failure
  obtain ⟨u, hu, hutrace, huxfers⟩ := exec_failureFree hr hb ⟨_, s.draws, rfl⟩
    (State.busOk_of_replicate (List.append_nil _).symm) hlist hbefore
  rw [hokxfers] at huxfers
  rw [hoktrace, hev, hcfg] at hutrace
  refine ⟨t, u, v, ev, b, before.length, x, ht, hu, by simp [hlist], by rw [htake, hcount], by rw [htake, hbefore],
    by rw [hw.trace, hev, hcfg], hutrace, hwr.trans hcount, hstatus, hsynced, hrx,
    (State.micro_aborted_response hx).1, by rw [hdone, hkeeps.initDone, State.accept_initDone],
    hdraw ▸ hw.latchLanded, fun h => (hw.latchKept (hdraw.trans h)).trans hlatch,
    hdraw ▸ hw.xfersLanded, hdraw ▸ hw.xfersKept, hw.xfersPrefix.trans huxfers,
    fun hi => by simp [hmark, hi], fun hi => by simp [hmark, hi], fun hp => ?_, fun hp => ?_⟩
  · exact hsh.trans ((hgoes.shConfirmed (by simpa using hp)).trans (s.accept_sh i))
  · rw [htake, hsh, State.runMicros_going_sh (by simpa using hp) hbefore, State.accept_sh]

/-! ## Use before INIT (R243) -/

/-- The state of a block that has been used and not initialized, the rest as it is. -/
def State.usedBeforeInit (s : State) : State := { s with fBeforeInit := true, initDone := false }

/-- An operation with its state changed by `f`, as far as it has come. -/
def Progress.map (f : State → State) : Progress → Progress
  | .going s => .going (f s)
  | .aborted s => .aborted (f s)

/-- A change of the state that passes through every micro-step passes through every run. -/
theorem State.runMicros_map {f : State → State} (hf : ∀ s m, (f s).micro m = (s.micro m).map f) (s : State)
    (l : List Micro) : (f s).runMicros l = (s.runMicros l).map f := by
  induction l generalizing s with
  | nil => rfl
  | cons m l ih =>
    rw [State.runMicros_cons, State.runMicros_cons, hf]
    cases s.micro m with
    | going t => exact ih t
    | aborted t => rfl

theorem State.land_usedBeforeInit (s : State) (b : Byte) :
    s.usedBeforeInit.land b = (s.land b).usedBeforeInit := by
  simp only [State.land, State.receive, State.latchNibble_eq, State.usedBeforeInit]
  split
  · rfl
  · split <;> rfl

theorem State.memWrite_usedBeforeInit (s : State) (b : Byte) :
    s.usedBeforeInit.memWrite b = (s.memWrite b).map State.usedBeforeInit := by
  have hlanded : (s.usedBeforeInit.emit (.wr s.cfg.addr b)).takeAnswer.land b =
      ((s.emit (.wr s.cfg.addr b)).takeAnswer.land b).usedBeforeInit :=
    State.land_usedBeforeInit (s.emit (.wr s.cfg.addr b)).takeAnswer b
  have hanswer : s.usedBeforeInit.answerAt 0 = s.answerAt 0 := rfl
  have hcfg : s.usedBeforeInit.cfg = s.cfg := rfl
  simp only [State.memWrite, hanswer, hcfg, hlanded]
  cases s.answerAt 0 <;> rfl

/-- No micro-step reads INIT_DONE or F_BEFORE_INIT, or writes them. -/
theorem State.micro_usedBeforeInit (s : State) (m : Micro) :
    s.usedBeforeInit.micro m = (s.micro m).map State.usedBeforeInit := by
  cases m with
  | write x =>
    have hwrite : s.usedBeforeInit.expanderWrite (x.byte s.cfg s.w) =
        (s.expanderWrite (x.byte s.cfg s.w)).map State.usedBeforeInit := s.memWrite_usedBeforeInit _
    have hbyte : s.usedBeforeInit.cfg = s.cfg ∧ s.usedBeforeInit.w = s.w := ⟨rfl, rfl⟩
    simp only [State.micro, hbyte, hwrite]
    cases s.expanderWrite (x.byte s.cfg s.w) <;> rfl
  | sleep d => rfl
  | sleepReady d => rfl
  | assign a =>
    simp only [State.micro, State.assign, State.usedBeforeInit, Progress.map]
    cases s.cfg.policy <;> rfl

/-- Completion of a request other than INIT leaves both marks (60_exceptions.md R242). -/
theorem State.complete_usedBeforeInit {s : State} {i : Instr} (hactive : s.active = some i) (hi : i ≠ .init) :
    s.usedBeforeInit.complete = s.complete.usedBeforeInit := by
  simp [State.complete, State.usedBeforeInit, hactive, hi]

/-- Settles O54: acceptance sets the mark, and every later move leaves it. -/
theorem useBeforeInitMarked : Obligations.UseBeforeInitMarked := by
  intro i s hr hi hb hdone
  have haccept : s.accept i = (State.accept i { s with initDone := true }).usedBeforeInit := by
    simp [State.accept_of_ne_init _ hi, State.usedBeforeInit, hdone]
  obtain ⟨u, hu⟩ := exec_next i { s with initDone := true }
  have ht : exec i s = .next u.usedBeforeInit := by
    rw [exec_request s hr, performRequest_idle hb, haccept, State.runMicros_map State.micro_usedBeforeInit]
    rcases exec_request_cases hr hu with ⟨hb', -⟩ | ⟨-, v, hv, rfl⟩ | ⟨-, hv⟩
    · exact absurd (hb'.symm.trans hb) (by decide)
    · have hactive : v.active = some i := (State.runMicros_going hv).1.active.trans (State.accept_active _ i)
      rw [hv]
      exact congrArg _ (State.complete_usedBeforeInit hactive hi)
    · rw [hv]
      rfl
  exact ⟨_, u, ht, hu, rfl, rfl⟩

/-! ## No step stops the block (R248, 70_reset_and_hazards.md R290) -/

/-- Settles O13: whatever the step does, an instruction it executes answers a next state. -/
theorem everyStepGoesOn : Obligations.EveryStepGoesOn := by
  intro s
  rcases step_cases s with ⟨-, h⟩ | ⟨-, -, -, h⟩ | ⟨c, u, -, -, hrun⟩
  · exact ⟨_, h⟩
  · exact ⟨_, h⟩
  · rcases hrun with ⟨i, -, h⟩ | ⟨e, -, h⟩
    · obtain ⟨t, ht⟩ := exec_next i u
      exact ⟨t, h.trans ht⟩
    · exact ⟨_, h⟩

end Sys2Proof.Machine

/-! PROOF. The statements of 70_reset_and_hazards.md: reset is construction (R270), the state INIT leaves (R272),
and what each request costs (R280, R291). -/

namespace Sys2Proof.Machine

/-! ## Reset -/

/-- Settles O58: ROWS is not 0 at reset, so construction builds the configuration whatever stood before. -/
theorem resetIsConstruction : Obligations.ResetIsConstruction := by
  have hrows : State.reset.cfg.rows ≠ 0 := by decide
  exact ⟨fun s => (if_neg hrows).symm, rfl, rfl, rfl, rfl, rfl, rfl, rfl, rfl, rfl, rfl⟩

/-! ## The state INIT leaves -/

/-- The packed view of what INIT leaves (R272). -/
theorem packed_initShadow : initShadow.packed = 0x2C := rfl

/-- Settles O35: the fields of the next state O34 gives. -/
theorem initEndState : Obligations.InitEndState := by
  intro s hb hok
  refine ⟨_, initResult s hb hok, rfl, packed_initShadow, rfl, rfl, rfl, rfl, rfl, fun hlines => ?_, rfl, rfl⟩
  obtain ⟨hbl, -, -, -⟩ := masks_of_exp8Lines hlines
  exact hbl

/-! ## What a list of micro-steps costs -/

/-- A row of R291's table: micro-steps, writes, least time. -/
def costs (c : Cfg) (l : List Micro) : Nat × Nat × Nat := (l.length, writeCount l, leastTime c l)

section
variable (c : Cfg)

/-- The costs of a list are the sums of the costs of its parts. -/
theorem costs_append {l r : List Micro} {n m k j t u : Nat} (hl : costs c l = (n, k, t)) (hr : costs c r = (m, j, u)) :
    costs c (l ++ r) = (n + m, k + j, t + u) := by
  simp only [costs, Prod.mk.injEq] at hl hr ⊢
  obtain ⟨hn, hk, ht⟩ := hl
  obtain ⟨hm, hj, hu⟩ := hr
  rw [List.length_append, writeCount_append, leastTime_append, hn, hk, ht, hm, hj, hu]
  exact ⟨rfl, rfl, rfl⟩

theorem costs_sleep (d : Delay) : costs c [.sleep d] = (1, 0, d.micros c) := rfl

theorem costs_assign (a : List (Field × Bool)) : costs c [.assign a] = (1, 0, 0) := rfl

/-- A strobe: two writes, each followed by T_EDGE (40_transport.md R142). -/
theorem costs_writeNibble (v : Value) (h : Half) (m : Mode) :
    costs c (writeNibble v h m) = (4, 2, 2 * c.tEdge) := by
  have htime : leastTime c (writeNibble v h m) = 2 * c.tEdge := by
    simp +arith [leastTime, writeNibble, Delay.micros]
  rw [costs, htime]
  rfl

/-- The strobe after which the receiver is ready costs what any other does (41_init.md R165). -/
theorem costs_switchTo4bit : costs c switchTo4bit = (4, 2, 2 * c.tEdge) :=
  costs_writeNibble c (.lit 0x20) .high .command

theorem costs_sendByte (v : Value) (m : Mode) : costs c (sendByte v m) = (8, 4, 4 * c.tEdge) := by
  rw [costs, length_sendByte, writeCount_sendByte, leastTime_sendByte]

/-- A flag bundle: an assignment, which costs no write and no time, and one byte (42_commands.md R187, R198). -/
theorem costs_assign_sendByte (a : List (Field × Bool)) (v : Value) (m : Mode) :
    costs c (.assign a :: sendByte v m) = (9, 4, 4 * c.tEdge) := by
  have hsum := costs_append c (costs_assign c a) (costs_sendByte c v m)
  rw [Nat.zero_add (4 * c.tEdge)] at hsum
  exact hsum

/-- A slow command: one byte and T_SLOW (R180, R181). -/
theorem costs_slowCommandSteps (v : Byte) : costs c (slowCommandSteps v) = (9, 4, 4 * c.tEdge + c.tSlow) :=
  costs_append c (costs_sendByte c (.lit v) .command) (costs_sleep c .slow)

theorem costs_backlightSteps (v : Bool) : costs c (backlightSteps v) = (2, 1, 0) := rfl

/-- CGDEF: nine bytes (43_data.md R227). -/
theorem costs_cgdefSteps (slot : BitVec 8) {glyph : List Byte} (hg : glyph.length = 8) :
    costs c (cgdefSteps slot glyph) = (72, 36, 36 * c.tEdge) := by
  have hrows : costs c (glyph.flatMap fun r => sendByte (.lit r) .data) = (64, 32, 32 * c.tEdge) := by
    rw [costs, length_sendBytes, writeCount_sendBytes, leastTime_sendBytes, hg]
  have hsum := costs_append c (costs_sendByte c (.lit (cgramByte slot)) .command) hrows
  rwa [← Nat.add_mul] at hsum

/-- A wait of INIT's and the strobe after it (41_init.md R161 to R165). -/
theorem costs_sleep_strobe (d : Delay) {l : List Micro} (hl : costs c l = (4, 2, 2 * c.tEdge)) :
    costs c ([.sleep d] ++ l) = (5, 2, d.micros c + 2 * c.tEdge) :=
  costs_append c (costs_sleep c d) hl

/-- INIT's micro-steps 0 to 19: four waits, each before a strobe (R161 to R166). -/
theorem costs_bringUpSteps :
    costs c bringUpSteps = (20, 8, (c.tPower + 2 * c.tEdge) + ((c.tInit1 + 2 * c.tEdge) +
      ((c.tInit2 + 2 * c.tEdge) + (c.tInit3 + 2 * c.tEdge)))) :=
  have hforce (d : Delay) : costs c ([.sleep d] ++ force8bit) = (5, 2, d.micros c + 2 * c.tEdge) :=
    costs_sleep_strobe c d (costs_writeNibble c (.lit 0x30) .high .command)
  costs_append c (hforce .power) (costs_append c (hforce .init1) (costs_append c (hforce .init2)
    (costs_sleep_strobe c .init3 (costs_switchTo4bit c))))

/-- INIT's micro-steps 20 to 56: a byte, two flag bundles, a slow command and the backlight write (R167 to R169). -/
theorem costs_programSteps :
    costs c (programSteps c) =
      (37, 17, 4 * c.tEdge + (4 * c.tEdge + (4 * c.tEdge + (4 * c.tEdge + c.tSlow)))) :=
  costs_append c (costs_sendByte c _ _) (costs_append c (costs_assign_sendByte c _ _ _)
    (costs_append c (costs_assign_sendByte c _ _ _) (costs_append c (costs_slowCommandSteps c 0x01)
      (costs_backlightSteps c true))))

end

/-- Settles O59: by the shape of the request's list. -/
theorem requestCosts : Obligations.RequestCosts := by
  intro c i hw hr hedge hpower hinit1 hinit2 hinit3 hslow
  change costs c (program c i) = _
  cases i <;> cases hr
  case init =>
    exact (costs_append c (costs_bringUpSteps c) (costs_programSteps c)).trans
      (by rw [hedge, hpower, hinit1, hinit2, hinit3, hslow])
  case clear | home => exact (costs_slowCommandSteps c _).trans (by rw [hedge, hslow])
  case putc | setcursor | scrollLeft | scrollRight => exact (costs_sendByte c _ _).trans (by rw [hedge])
  case backlightOn | backlightOff => exact costs_backlightSteps c _
  case cgdef slot glyph => exact (costs_cgdefSteps c slot (eq_of_beq hw)).trans (by rw [hedge])
  -- the ten requests that assign a flag of the display-control or entry-mode bundle
  all_goals exact (costs_assign_sendByte c _ _ _).trans (by rw [hedge])

end Sys2Proof.Machine

/-! PROOF. The rows of the table that are no request, each performed by itself (30_encoding.md R112, R114; log 12,
14), and what an idle step takes from the transport latch and from the port (log 13, 19). -/

namespace Sys2Proof.Machine

/-! ## Transport operations by themselves -/

/-- An idle block counts an operation's micro-steps and writes from 0, a busy one goes on counting (log 12). -/
theorem State.beginTransport_eq (s : State) :
    s.beginTransport = { s with pc := if s.busy then s.pc else 0, k := if s.busy then s.k else 0 } := by
  cases hb : s.busy <;> simp [State.beginTransport, hb]

/-- An operation that no failed write ends leaves the state its micro-steps reach: no acceptance, no response. -/
theorem exec_transport_of_going {i : Instr} {s t : State} (hr : i.isRequest = false)
    (h : s.beginTransport.runMicros (program s.cfg i) = .going t) : exec i s = .next t := by
  rw [exec_transport s hr, performTransport, h]
  rfl

theorem State.beginTransport_busOk {s : State} {n : Nat} (h : s.busOk n) : s.beginTransport.busOk n :=
  State.busOk_congr s.beginTransport_bus s.beginTransport_draws h

/-- An instruction spelled by a command byte is no request, and its list sends that byte. -/
theorem program_of_commandCode (c : Cfg) {i : Instr} {v : Byte} (h : encode i = .transport (.command v)) :
    i.isRequest = false ∧ program c i = sendByte (.lit v) .command := by
  -- the code of a request or of a nibble is not of this form; `v` is the byte of the command that is left
  cases i <;> cases h
  all_goals exact ⟨rfl, rfl⟩

/-- A command sent by itself on a bus that completes its four writes is one transfer of the byte that spells it. -/
theorem exec_of_commandCode {i : Instr} {s : State} {v : Byte} (hok : s.busOk 4)
    (hcode : encode i = .transport (.command v)) : exec i s = .next (s.afterCommand v) := by
  obtain ⟨hr, hlist⟩ := program_of_commandCode s.cfg hcode
  have hrun := sendByte_run (.lit v) .command (State.beginTransport_busOk hok)
  rw [exec_transport_of_going hr (hlist ▸ hrun), State.sent_eq, State.beginTransport_eq]
  simp only [State.afterCommand, State.received_eq, Value.eval]

/-- Settles O51: each row is spelled by its pattern of R112. -/
theorem commandByteResult : Obligations.CommandByteResult := by
  intro s hok
  exact ⟨exec_of_commandCode hok rfl, exec_of_commandCode hok rfl,
    fun i b => exec_of_commandCode hok (encode_cmdEntryModeSet i b),
    fun d c b => exec_of_commandCode hok (encode_cmdDisplayControl d c b),
    fun m r => exec_of_commandCode hok (encode_cmdCursorDisplayShift m r),
    fun l n f => exec_of_commandCode hok (encode_cmdFunctionSet l n f),
    fun a => exec_of_commandCode hok (encode_cmdSetCgramAddress a),
    fun a => exec_of_commandCode hok (encode_cmdSetDdramAddress a)⟩

/-- In COMMAND mode the register-select line stays low, so a nibble's lines are its data lines alone (R101). -/
theorem nibbleLines_command (c : Cfg) (n : Nibble) : nibbleLines c n .command = dataBits c n := BitVec.or_zero

/-- A row whose list is one WriteNibble, on a bus that completes its two writes, latches that nibble once. -/
theorem exec_of_one_nibble {i : Instr} {s : State} {v : Byte} (hok : s.busOk 2) (hr : i.isRequest = false)
    (hlist : program s.cfg i = writeNibble (.lit v) .high .command) :
    exec i s = .next (s.afterNibble (v.extractLsb' 4 4)) := by
  have hrun := writeNibble_run (.lit v) .high .command (State.beginTransport_busOk hok)
  rw [exec_transport_of_going hr (hlist ▸ hrun), State.strobed, State.beginTransport_eq]
  simp only [State.afterNibble, State.latchNibble_eq, nibbleLines_command, halfNibble, Value.eval]

/-- Settles O52: the nibbles are the high halves of the bytes 0x30 and 0x20 (R114). -/
theorem initNibbleResult : Obligations.InitNibbleResult := by
  intro s hok
  exact ⟨exec_of_one_nibble (v := 0x30) hok rfl rfl, exec_of_one_nibble (v := 0x20) hok rfl rfl⟩

/-! ## What an idle step takes -/

/-- Settles O6: a reserved word does not decode, so the step refuses it in the state whose port has lost it. -/
theorem refusedWordsLeavePort : Obligations.RefusedWordsLeavePort := by
  intro s q payload rest hb hx hport hlen hres
  have hstep := step_port hb hx hport hlen
  rcases runCode_cases (.request q payload) { s with port := rest } with ⟨i, hdec, -⟩ | ⟨_, -, hrun⟩
  · exact absurd hres ((decodeRequest_isOk_iff hlen).mp ⟨i, hdec⟩)
  · exact ⟨_, hstep.trans hrun, rfl⟩

/-- Settles O8: an idle step looks at the transport latch before the port (log 13). -/
theorem stepRunsDecodedTransportWord : Obligations.StepRunsDecodedTransportWord := by
  intro s t i hb hx hdec
  simp only [step, hb, hx, runCode, hdec]

end Sys2Proof.Machine
